-- ==== Sys2Proof/Word.lean ====
section
/-! DEFINITION. The word types of the engine (00_scope.md R6, R7, R13). -/

namespace Sys2Proof

/-- One byte. -/
abbrev Byte := BitVec 8

/-- WORD_BITS = 32 (R6): "unsigned 32-bit integer". -/
abbrev Word := BitVec 32

/-- A 64-bit counter (R6 COUNTER_BITS). -/
abbrev Counter := BitVec 64

/-- The 8-bit set of domain-separation flags (R6 FLAG_BITS). -/
abbrev DomainFlags := BitVec 8

/-- A chaining value: 8 words (R6 CV_WORDS, R13). -/
abbrev Cv := Vector Word 8

/-- A block, a message or a full output: 16 words (R6 BLOCK_LEN, R13). -/
abbrev Block := Vector Word 16

end Sys2Proof
end

