-- ==== Sys2Proof/Machine/Constants.lean ====
section
/-! DEFINITION. The bit-exact constants (00_scope.md R11), the parameters (R6), the message schedule
(40_compress.md R92) and popcount (R12). -/

namespace Sys2Proof.Machine

/-- IV[0..7] (R11). -/
def iv : Cv :=
  #v[0x6A09E667, 0xBB67AE85, 0x3C6EF372, 0xA54FF53A, 0x510E527F, 0x9B05688C, 0x1F83D9AB, 0x5BE0CD19]

/-- CHUNK_START (R11). -/
def chunkStart : DomainFlags := 0x01
/-- CHUNK_END (R11). -/
def chunkEnd : DomainFlags := 0x02
/-- PARENT (R11). -/
def parent : DomainFlags := 0x04
/-- ROOT (R11). -/
def root : DomainFlags := 0x08
/-- KEYED_HASH (R11, R23). -/
def keyedHash : DomainFlags := 0x10
/-- DERIVE_KEY_CONTEXT (R11, R23). -/
def deriveKeyContext : DomainFlags := 0x20
/-- DERIVE_KEY_MATERIAL (R11, R23). -/
def deriveKeyMaterial : DomainFlags := 0x40

/-- SIGMA (R11). -/
def sigma : Vector (Fin 16) 16 := #v[2, 6, 3, 10, 7, 0, 4, 13, 1, 11, 12, 5, 9, 14, 15, 8]

/-- The rows S_0 to S_6 of R92: the message-word indices round r consumes. -/
def schedule : Vector (Vector (Fin 16) 16) 7 :=
  #v[#v[0, 1, 2, 3, 4, 5, 6, 7, 8, 9, 10, 11, 12, 13, 14, 15],
     #v[2, 6, 3, 10, 7, 0, 4, 13, 1, 11, 12, 5, 9, 14, 15, 8],
     #v[3, 4, 10, 12, 13, 2, 7, 14, 6, 5, 9, 0, 11, 15, 8, 1],
     #v[10, 7, 12, 9, 14, 3, 13, 15, 4, 0, 11, 2, 5, 8, 1, 6],
     #v[12, 13, 9, 11, 15, 10, 14, 8, 7, 2, 5, 3, 0, 1, 6, 4],
     #v[9, 14, 11, 5, 8, 12, 15, 1, 13, 3, 0, 10, 2, 6, 4, 7],
     #v[11, 15, 5, 0, 1, 9, 8, 6, 14, 10, 2, 12, 3, 4, 7, 13]]

/-- The ID register's constant (R19). -/
def idWord : Word := 0x424C4B33

/-- BLOCK_LEN in bytes (R6). -/
def blockBytes : Nat := 64
/-- CHUNK_LEN in bytes (R6). -/
def chunkBytes : Nat := 1024
/-- DBUF_BYTES (R6). -/
def dbufBytes : Nat := 4096
/-- APERTURE_BYTES (R6). -/
def apertureBytes : Nat := 8192
/-- MAX_INPUT_BYTES = 2^74 (R6, R121). -/
def maxInputBytes : Nat := 2 ^ 74

/-- The one bits among the low `bits` bits of `n`. -/
def onesBelow : Nat → Nat → Nat
  | 0, _ => 0
  | bits + 1, n => n % 2 + onesBelow bits (n / 2)

/-- `popcount(n)` of a 64-bit value (R12). -/
def popcount (n : Counter) : Nat := onesBelow 64 n.toNat

/-- The trailing zero bits among the low `bits` bits of `n`. -/
def zerosBelow : Nat → Nat → Nat
  | 0, _ => 0
  | bits + 1, n => if n % 2 = 1 then 0 else zerosBelow bits (n / 2) + 1

/-- `tz(n)` of a 64-bit value n > 0 (R12). -/
def tz (n : Counter) : Nat := zerosBelow 64 n.toNat

@[simp] theorem blockBytes_eq : blockBytes = 64 := rfl
@[simp] theorem chunkBytes_eq : chunkBytes = 1024 := rfl
@[simp] theorem dbufBytes_eq : dbufBytes = 4096 := rfl
@[simp] theorem apertureBytes_eq : apertureBytes = 8192 := rfl
@[simp] theorem maxInputBytes_eq : maxInputBytes = 2 ^ 74 := rfl

end Sys2Proof.Machine
end

