-- ==== Sys2Proof/Syntax.lean ====
section
/-! DEFINITION. The six commands (30_encoding.md R74, R76; spec/opcode_table.json). -/

namespace Sys2Proof

/-- A command of the engine. Only UPDATE has operands (R78, R79): OFF, a DBUF byte offset in 12 bits, and
LEN, a byte count in 13 bits. -/
inductive Instr where
  /-- INIT, opcode 0x1 (R116). -/
  | init
  /-- UPDATE off, len, opcode 0x2 (R117). -/
  | update (off : BitVec 12) (len : BitVec 13)
  /-- FINALIZE, opcode 0x3 (R131). -/
  | finalize
  /-- XOF, opcode 0x4 (R137). -/
  | xof
  /-- COMPRESS, opcode 0x5 (R101). -/
  | compress
  /-- COMPRESS4, opcode 0x6 (R105). -/
  | compress4
deriving DecidableEq, Repr

end Sys2Proof
end

