-- ==== Sys2Proof/Machine/State.lean ====
section
/-! DEFINITION. The engine's state (10_state.md), its reset value (70_reset_and_hazards.md R169), and the
reasons a step can stop. -/

namespace Sys2Proof.Machine

/-- The error codes of R152. Codes 7 to 15 are never raised (V5), so they have no constructor. -/
inductive ErrorCode where
  /-- 1, ERR_ILLEGAL_CMD: a CMD write while idle whose word is no command (R82). -/
  | illegalCmd
  /-- 2, ERR_RANGE: UPDATE with OFF + LEN > 4096 (R78). -/
  | range
  /-- 3, ERR_NO_SEED: XOF with SEED_VALID = 0 (R137). -/
  | noSeed
  /-- 4, ERR_OVERFLOW: UPDATE past 2^74 bytes of input (R121). -/
  | overflow
  /-- 5, ERR_BUSY: a refused write while BUSY = 1 (R151). -/
  | busy
  /-- 6, ERR_BUS: an access that is not an aligned 32-bit one (R59). -/
  | bus
deriving DecidableEq, Repr

/-- LANE k operand bank (R32). -/
structure LaneBank where
  /-- L_CV[k][0..7] -/
  cv : Cv
  /-- L_M[k][0..15] -/
  m : Block
  /-- L_CTR_LO[k] -/
  ctrLo : Word
  /-- L_CTR_HI[k] -/
  ctrHi : Word
  /-- L_BLEN[k], any 32-bit value -/
  blockLen : Word
  /-- L_FLAGS[k], bits [7:0] -/
  flags : DomainFlags
deriving DecidableEq, Repr

/-- The SEED registers (R29, R30). There is no seed counter (R134). -/
structure Seed where
  /-- SEED_CV[0..7] -/
  cv : Cv
  /-- SEED_M[0..15] -/
  m : Block
  /-- SEED_BLEN -/
  blockLen : Word
  /-- SEED_FLAGS, bits [7:0], without ROOT -/
  flags : DomainFlags
deriving DecidableEq, Repr

/-- Chunk state CS (R40). -/
structure ChunkState where
  /-- CS.cv[0..7] -/
  cv : Cv
  /-- CS.ctr, the chunk counter -/
  ctr : Counter
  /-- CS.buf[0..63] -/
  buf : Vector Byte 64
  /-- CS.buf_len, 0..64 -/
  bufLen : Fin 65
  /-- CS.blocks, 0..15 -/
  blocks : Fin 16
deriving DecidableEq, Repr

/-- The hash in progress (R36, R40, R42). -/
structure HashState where
  /-- H_KEY[0..7] (R36) -/
  hKey : Cv
  /-- H_MODE (R36) -/
  hMode : DomainFlags
  /-- CS (R40) -/
  cs : ChunkState
  /-- STACK (R42), the TOP entry first: the head is STACK[STACK_DEPTH-1], the last is STACK[0]. -/
  stack : List Cv
deriving DecidableEq, Repr

/-- What the engine meets from outside, one entry an event (R14, R65, R149, R169; log 1). -/
inductive Input where
  /-- `BusWrite(off, v)` at bus offset `off` from ENGINE_BASE, `width` bits wide (R10, R59). Only a 32-bit
  write has an effect, so the value carries 32 bits. -/
  | write (width off : Nat) (v : Word)
  /-- `BusRead(off)`, `width` bits wide (R10, R59). -/
  | read (width off : Nat)
  /-- No access reaches the engine before it takes its step: the pending command runs now (R149). -/
  | engineTurn
  /-- The reset input is asserted and released (R169). -/
  | reset
deriving DecidableEq, Repr

/-- The state of the engine: the registers of R18, the hidden state of R36 to R45, and the model's own four
fields (log 1, 5, 6, 8). -/
structure State where
  /-- PENDING (R45): the accepted command not yet completed. STATUS.BUSY is "not empty" (log 3). -/
  pending : Option Instr
  /-- STATUS.DONE (R21, R150). -/
  done : Bool
  /-- STATUS.ERR and STATUS.ERR_CODE (R21, R152): ERR = 1 exactly when a code is held (log 4). -/
  err : Option ErrorCode
  /-- STATUS.SEED_VALID (R21). -/
  seedValid : Bool
  /-- IRQ_EN (R22): bit 0 DONE_IE, bit 1 ERR_IE. -/
  irqEn : BitVec 2
  /-- MODE, bits [7:0] (R23). -/
  mode : DomainFlags
  /-- KEY[0..7] (R24). -/
  key : Cv
  /-- XOF_CTR (R25). -/
  xofCtr : Counter
  /-- SEED_CV, SEED_M, SEED_BLEN, SEED_FLAGS (R29, R30). -/
  seed : Seed
  /-- XOUT[0..15] (R31). -/
  xout : Block
  /-- The lane operand banks 0..3 (R32). -/
  lanes : Vector LaneBank 4
  /-- The result banks RES[0..3][0..15] (R34). -/
  res : Vector Block 4
  /-- DBUF (R35): the bytes written since reset, as (byte offset, byte), offsets strictly rising and below
  4096. A byte not listed is the free value `Config.dbufByte` (log 5). -/
  dbuf : List Host.Cell
  /-- H_KEY, H_MODE, CS and STACK (R36, R40, R42). -/
  hash : HashState
  /-- MODEL'S OWN (log 1): what happens to the engine next, oldest first. -/
  inputs : List Input
  /-- MODEL'S OWN (log 8): what the bus reads returned, oldest first. -/
  replies : List Word
  /-- MODEL'S OWN (log 6): how many reads while BUSY have drawn a value of `Config.busyRead`. -/
  draws : Nat
  /-- MODEL'S OWN (log 5): how many times the reset input has acted. -/
  resets : Nat
deriving DecidableEq, Repr

/-- No step of this engine ends in a fault, so there is no constructor: every bus access and every command word
has a rule (93_implementation_defined.md §3, last sentence), a wrong one is recorded in STATUS (R152, R153) and
the engine goes on, and execution cannot fail (R149). Log 9. -/
inductive Fault where
deriving DecidableEq, Repr

/-- Why the model gives a step no meaning. -/
inductive Refusal where
  /-- SAFE. An instruction that has no meaning yet; raised by an arm of `exec` alone. No arm raises it now. -/
  | notModelled (mnemonic : String)
  /-- SAFE. A bus access at an offset of 8192 or more, outside the aperture; raised by `busWrite` and `busRead`.
  The engine "does not decode, and does not respond to" it (R50), and U6 says `refuse` (log 7). -/
  | outsideAperture
deriving DecidableEq, Repr

/-- CS at reset and at the start of a chunk with counter `ctr` (R40, R110). -/
def ChunkState.fresh (key : Cv) (ctr : Counter) : ChunkState where
  cv := key
  ctr := ctr
  buf := Vector.replicate 64 0
  bufLen := 0
  blocks := 0

/-- A lane bank at reset: every field 0 (R33). -/
def LaneBank.zero : LaneBank where
  cv := Vector.replicate 8 0
  m := Vector.replicate 16 0
  ctrLo := 0
  ctrHi := 0
  blockLen := 0
  flags := 0

/-- The SEED registers at reset: all 0 (R29, R30). -/
def Seed.zero : Seed where
  cv := Vector.replicate 8 0
  m := Vector.replicate 16 0
  blockLen := 0
  flags := 0

/-- The engine right after reset (R169). The model's own fields are empty and 0 (log 1, 5, 6, 8). -/
def State.reset : State where
  pending := none
  done := false
  err := none
  seedValid := false
  irqEn := 0
  mode := 0
  key := iv
  xofCtr := 0
  seed := Seed.zero
  xout := Vector.replicate 16 0
  lanes := Vector.replicate 4 LaneBank.zero
  res := Vector.replicate 4 (Vector.replicate 16 0)
  dbuf := []
  hash := { hKey := iv, hMode := 0, cs := ChunkState.fresh iv 0, stack := [] }
  inputs := []
  replies := []
  draws := 0
  resets := 0

end Sys2Proof.Machine
end

