-- ==== Sys2Proof/Machine/Operands.lean ====
section
/-! DEFINITION. Byte and word conversions (00_scope.md R9), 64-bit counters in two halves (10_state.md R25, R32,
30_encoding.md R80), and the operand tuple of a compression (40_compress.md R88). -/

namespace Sys2Proof.Machine

/-- `LE32(b0, b1, b2, b3)` (R9). -/
def le32 (b0 b1 b2 b3 : Byte) : Word := b3 ++ b2 ++ b1 ++ b0

/-- Byte `b` of a word: bits `[8b+7:8b]` (R35, R55, R56). -/
def wordByte (w : Word) (b : Nat) : Byte := w.extractLsb' (8 * b) 8

/-- A word serialized least significant byte first (R9). -/
def wordBytes (w : Word) : List Byte := [wordByte w 0, wordByte w 1, wordByte w 2, wordByte w 3]

/-- `bytes(w)` of a word list (R9). -/
def bytesOf (ws : List Word) : List Byte := ws.flatMap wordBytes

/-- `words16(B)` of a byte string of length at most 64 (R9, R54): the missing bytes are zero. -/
def words16 (bs : List Byte) : Block :=
  Vector.ofFn fun i : Fin 16 =>
    le32 (bs.getD (4 * i.val) 0) (bs.getD (4 * i.val + 1) 0)
      (bs.getD (4 * i.val + 2) 0) (bs.getD (4 * i.val + 3) 0)

/-- Bits [31:0] of a counter (R25, R88). -/
def ctrLow (c : Counter) : Word := c.extractLsb' 0 32

/-- Bits [63:32] of a counter (R25, R88). -/
def ctrHigh (c : Counter) : Word := c.extractLsb' 32 32

/-- `{hi, lo}` (R7, R80). -/
def ctrOf (hi lo : Word) : Counter := hi ++ lo

/-- `a || b` of two 8-word lists (R12): a in words 0..7, b in words 8..15. -/
def concat8 (a b : Cv) : Block :=
  Vector.ofFn fun i : Fin 16 => if h : i.val < 8 then a[i.val] else b[i.val - 8]

/-- `first8(out)` (R12). -/
def first8 (out : Block) : Cv := Vector.ofFn fun i : Fin 8 => out[i.val]

/-- The operand tuple `(cv, m, counter, block_len, flags)` of one compression (R88). -/
structure Operands where
  cv : Cv
  m : Block
  counter : Counter
  blockLen : Word
  flags : DomainFlags
deriving DecidableEq, Repr

/-- The operands a lane bank holds (R32, R80, R101, R105). -/
def LaneBank.operands (b : LaneBank) : Operands where
  cv := b.cv
  m := b.m
  counter := ctrOf b.ctrHi b.ctrLo
  blockLen := b.blockLen
  flags := b.flags

/-- The operands of XOF (R137): the seed with ROOT set, and the output block counter. -/
def Seed.operands (s : Seed) (ctr : Counter) : Operands where
  cv := s.cv
  m := s.m
  counter := ctr
  blockLen := s.blockLen
  flags := s.flags ||| root

end Sys2Proof.Machine
end

