-- ==== Sys2Proof/Machine/Compression.lean ====
section
/-! DEFINITION. The compression function (40_compress.md R88 to R100) and its four-lane form (41_compress4.md
R103, R107). -/

namespace Sys2Proof.Machine

/-- `rotr32(x, n)` (R8). -/
def rotr32 (x : Word) (n : Nat) : Word := (x >>> n) ||| (x <<< (32 - n))

/-- `G(a, b, c, d, mx, my)` (R89): eight sequential steps on four words of v. -/
def mixG (v : Block) (a b c d : Fin 16) (mx my : Word) : Block :=
  let v := v.set a (v[a] + v[b] + mx)
  let v := v.set d (rotr32 (v[d] ^^^ v[a]) 16)
  let v := v.set c (v[c] + v[d])
  let v := v.set b (rotr32 (v[b] ^^^ v[c]) 12)
  let v := v.set a (v[a] + v[b] + my)
  let v := v.set d (rotr32 (v[d] ^^^ v[a]) 8)
  let v := v.set c (v[c] + v[d])
  v.set b (rotr32 (v[b] ^^^ v[c]) 7)

/-- G-call j of a round with row `s` of the schedule, on the state words a, b, c, d (R90). -/
def gCall (m : Block) (s : Vector (Fin 16) 16) (j : Fin 8) (a b c d : Fin 16) (v : Block) : Block :=
  mixG v a b c d m[s[2 * j.val]] m[s[2 * j.val + 1]]

/-- The four column calls (R90, j = 0..3). -/
def columns (m : Block) (s : Vector (Fin 16) 16) (v : Block) : Block :=
  gCall m s 3 3 7 11 15 (gCall m s 2 2 6 10 14 (gCall m s 1 1 5 9 13 (gCall m s 0 0 4 8 12 v)))

/-- The four diagonal calls (R90, j = 4..7). -/
def diagonals (m : Block) (s : Vector (Fin 16) 16) (v : Block) : Block :=
  gCall m s 7 3 4 9 14 (gCall m s 6 2 7 8 13 (gCall m s 5 1 6 11 12 (gCall m s 4 0 5 10 15 v)))

/-- One round (R90): the columns, then the diagonals. -/
def mixRound (m : Block) (s : Vector (Fin 16) 16) (v : Block) : Block := diagonals m s (columns m s v)

/-- The initial working state (R88). -/
def initialState (o : Operands) : Block :=
  #v[o.cv[0], o.cv[1], o.cv[2], o.cv[3], o.cv[4], o.cv[5], o.cv[6], o.cv[7],
     iv[0], iv[1], iv[2], iv[3],
     ctrLow o.counter, ctrHigh o.counter, o.blockLen, o.flags.setWidth 32]

/-- The working state after the first `r` rounds, in the order r = 0, 1, ... (R94). -/
def workingState (o : Operands) (r : Nat) : Block :=
  (schedule.toList.take r).foldl (fun v s => mixRound o.m s v) (initialState o)

/-- The output words from the final working state and the input chaining value (R95). -/
def outputWords (v : Block) (cv : Cv) : Block :=
  Vector.ofFn fun i : Fin 16 =>
    if h : i.val < 8 then v[i.val] ^^^ v[i.val + 8] else v[i.val] ^^^ cv[i.val - 8]

/-- `compress(cv, m, counter, block_len, flags)` (R88 to R95, R100): exactly 7 rounds. Total (R97). -/
def compress (o : Operands) : Block := outputWords (workingState o 7) o.cv

/-- A chaining value: `first8(compress(...))` (R96). -/
def chainingValue (o : Operands) : Cv := first8 (compress o)

/-- The permuting form of R93: after each round the message words are permuted, `m'[i] = m[SIGMA[i]]`. -/
def permuteMessage (m : Block) : Block := Vector.ofFn fun i : Fin 16 => m[sigma[i.val]]

/-- `rounds` rounds in the permuting form of R93: every round uses the identity order. -/
def permutedRounds : Nat → Block → Block → Block
  | 0, _, v => v
  | n + 1, m, v => permutedRounds n (permuteMessage m) (mixRound m schedule[0] v)

/-- The compression function in the permuting form (R93). -/
def compressPermuted (o : Operands) : Block := outputWords (permutedRounds 7 o.m (initialState o)) o.cv

/-- A byte shuffle of one lane: result byte i is source byte `pattern[i]` (R99, GK-1; log 16). -/
def shuffleBytes (x : Word) (p0 p1 p2 p3 : Nat) : Word :=
  le32 (wordByte x p0) (wordByte x p1) (wordByte x p2) (wordByte x p3)

/-- Rotate-right-16 by the source's byte pattern (R99), on one lane. -/
def rotr16Shuffled (x : Word) : Word := shuffleBytes x 2 3 0 1

/-- Rotate-right-8 by the source's byte pattern (R99), on one lane. -/
def rotr8Shuffled (x : Word) : Word := shuffleBytes x 1 2 3 0

/-- Lane k of COMPRESS4 computes exactly `compress` of its own tuple (R103); the four together (R105). -/
def compress4 (o : Vector Operands 4) : Vector Block 4 := Vector.ofFn fun k : Fin 4 => compress o[k.val]

/-! ### The transposed datapath of R107

Sixteen vectors of four lanes: "state word `i` of tuple `k` lives in lane `k` of vector `i`". An alternative to
`compress4` that cannot be told from it. -/

/-- Four 32-bit lanes of one 128-bit vector (R107). -/
abbrev LaneVec := Vector Word 4

/-- Lane-wise application of a two-operand word operation. -/
def laneMap2 (f : Word → Word → Word) (x y : LaneVec) : LaneVec :=
  Vector.ofFn fun k : Fin 4 => f x[k.val] y[k.val]

/-- Lane-wise `rotr32`. -/
def laneRotr (x : LaneVec) (n : Nat) : LaneVec := Vector.ofFn fun k : Fin 4 => rotr32 x[k.val] n

/-- `G` on four transposed states at once. -/
def laneG (v : Vector LaneVec 16) (a b c d : Fin 16) (mx my : LaneVec) : Vector LaneVec 16 :=
  let v := v.set a (laneMap2 (· + ·) (laneMap2 (· + ·) v[a] v[b]) mx)
  let v := v.set d (laneRotr (laneMap2 (· ^^^ ·) v[d] v[a]) 16)
  let v := v.set c (laneMap2 (· + ·) v[c] v[d])
  let v := v.set b (laneRotr (laneMap2 (· ^^^ ·) v[b] v[c]) 12)
  let v := v.set a (laneMap2 (· + ·) (laneMap2 (· + ·) v[a] v[b]) my)
  let v := v.set d (laneRotr (laneMap2 (· ^^^ ·) v[d] v[a]) 8)
  let v := v.set c (laneMap2 (· + ·) v[c] v[d])
  v.set b (laneRotr (laneMap2 (· ^^^ ·) v[b] v[c]) 7)

/-- A round on four transposed states, the message words transposed the same way (R107). -/
def laneRound (m : Vector LaneVec 16) (s : Vector (Fin 16) 16) (v : Vector LaneVec 16) : Vector LaneVec 16 :=
  let call (j : Fin 8) (a b c d : Fin 16) (v : Vector LaneVec 16) :=
    laneG v a b c d m[s[2 * j.val]] m[s[2 * j.val + 1]]
  let v := call 3 3 7 11 15 (call 2 2 6 10 14 (call 1 1 5 9 13 (call 0 0 4 8 12 v)))
  call 7 3 4 9 14 (call 6 2 7 8 13 (call 5 1 6 11 12 (call 4 0 5 10 15 v)))

/-- Word i of tuple k into lane k of vector i (R107). -/
def transpose (w : Vector Block 4) : Vector LaneVec 16 :=
  Vector.ofFn fun i : Fin 16 => Vector.ofFn fun k : Fin 4 => w[k.val][i.val]

/-- Lane k of the sixteen vectors, as one working state. -/
def laneOf (v : Vector LaneVec 16) (k : Fin 4) : Block := Vector.ofFn fun i : Fin 16 => v[i.val][k.val]

/-- Four compressions on the transposed datapath (R107). -/
def compress4Transposed (o : Vector Operands 4) : Vector Block 4 :=
  let m := transpose (Vector.ofFn fun k : Fin 4 => o[k.val].m)
  let v := schedule.toList.foldl (fun v s => laneRound m s v)
    (transpose (Vector.ofFn fun k : Fin 4 => initialState o[k.val]))
  Vector.ofFn fun k : Fin 4 => outputWords (laneOf v k) o[k.val].cv

end Sys2Proof.Machine
end

