-- ==== Sys2Proof/Config.lean ====
section
/-! DEFINITION. The free values of the model: what the spec leaves UNSPECIFIED and a model treats as a
draw (93_implementation_defined.md U1, U2). Neither has a body, so no proof can know a value of it. The one
open parameter, ENGINE_BASE (U4), is an argument of `Sys2Proof.Machine.offsetOf`. -/

namespace Sys2Proof

/-- FREE VALUE (R35, U1; log 5). The byte at a DBUF byte offset that nothing has written since the engine was
last reset: one draw per byte, fixed until written. The first argument counts the resets, so that each reset
draws anew; the second is the byte offset. -/
opaque Config.dbufByte : Nat → Nat → Byte

/-- FREE VALUE (R46, U2; log 6). What a bus read of an engine-written register returns while BUSY = 1: a
fresh draw per read, numbered by the argument. -/
opaque Config.busyRead : Nat → Word

end Sys2Proof
end

