-- ==== Sys2Proof/WellFormed.lean ====
section
/-! DEFINITION. Which commands are well formed: the operand check of UPDATE (30_encoding.md R78). A command
that is not is rejected with ERR_RANGE (`Sys2Proof.Machine.acceptError`). -/

namespace Sys2Proof

/-- R78: UPDATE requires `OFF + LEN <= 4096`, in exact arithmetic; the other commands have no operand. -/
def Instr.wellFormed : Instr → Bool
  | .init => true
  | .update off len => decide (off.toNat + len.toNat ≤ 4096)
  | .finalize => true
  | .xof => true
  | .compress => true
  | .compress4 => true

end Sys2Proof
end

