-- ==== Sys2Proof/Decode.lean ====
section
/-! DEFINITION. Decoding a command word and encoding a command (30_encoding.md R74 to R84). -/

namespace Sys2Proof

/-- Why a word is no command (R82). The engine records ERR_ILLEGAL_CMD for each (`Machine.submit`). -/
inductive IllegalWord where
  /-- The opcode is 0x0 or 0x7-0xF (R76, R82). -/
  | reservedOpcode
  /-- RSV, bits [31:29], is not 0 (R74, R82). -/
  | reservedBits
  /-- OFF or LEN is not 0 on an opcode other than UPDATE (R79, R82). -/
  | strayOperand
deriving DecidableEq, Repr

/-- OP = w[3:0] (R74). -/
def opField (w : Word) : BitVec 4 := w.extractLsb' 0 4

/-- OFF = w[15:4] (R74). -/
def offField (w : Word) : BitVec 12 := w.extractLsb' 4 12

/-- LEN = w[28:16] (R74). -/
def lenField (w : Word) : BitVec 13 := w.extractLsb' 16 13

/-- RSV = w[31:29] (R74). -/
def rsvField (w : Word) : BitVec 3 := w.extractLsb' 29 3

/-- The opcode map (R76): which command an opcode names, given the word's OFF and LEN. -/
def commandOf (op : BitVec 4) (off : BitVec 12) (len : BitVec 13) : Option Instr :=
  if op = 1 then some .init
  else if op = 2 then some (.update off len)
  else if op = 3 then some .finalize
  else if op = 4 then some .xof
  else if op = 5 then some .compress
  else if op = 6 then some .compress4
  else none

/-- The word's decoding: the first three checks of R81, in its order. The three checks that follow there
(RANGE, NO_SEED, OVERFLOW) are `Machine.acceptError`. -/
def decodeWord (w : Word) : Except IllegalWord Instr :=
  match commandOf (opField w) (offField w) (lenField w) with
  | none => .error .reservedOpcode
  | some i =>
    if rsvField w ≠ 0 then .error .reservedBits
    else if opField w ≠ 2 ∧ (offField w ≠ 0 ∨ lenField w ≠ 0) then .error .strayOperand
    else .ok i

/-- A command word from its four bytes, least significant first (R53, R9 LE32), and the bytes that follow;
fewer than four bytes are no command (R75). -/
def decodeBytes : List Byte → Option (Except IllegalWord Instr × List Byte)
  | b0 :: b1 :: b2 :: b3 :: rest => some (decodeWord (b3 ++ b2 ++ b1 ++ b0), rest)
  | _ => none

/-- The opcode (R76). -/
def Instr.opcode : Instr → BitVec 4
  | .init => 1
  | .update _ _ => 2
  | .finalize => 3
  | .xof => 4
  | .compress => 5
  | .compress4 => 6

/-- The OFF field (R78, R79). -/
def Instr.off : Instr → BitVec 12
  | .update off _ => off
  | .init => 0
  | .finalize => 0
  | .xof => 0
  | .compress => 0
  | .compress4 => 0

/-- The LEN field (R78, R79). -/
def Instr.len : Instr → BitVec 13
  | .update _ len => len
  | .init => 0
  | .finalize => 0
  | .xof => 0
  | .compress => 0
  | .compress4 => 0

/-- "A command's encoding is `OP | (OFF << 4) | (LEN << 16)`" (R84). -/
def encode (i : Instr) : Word :=
  i.opcode.setWidth 32 ||| (i.off.setWidth 32 <<< 4) ||| (i.len.setWidth 32 <<< 16)

/-- A command's four bytes in memory order (R53). -/
def encodeBytes (i : Instr) : List Byte :=
  let w := encode i
  [w.extractLsb' 0 8, w.extractLsb' 8 8, w.extractLsb' 16 8, w.extractLsb' 24 8]

/-- The command this decoder reads from an instruction of spec/opcode_table.json whose bits are `w`: one
32-bit word, bit 0 the least significant; bits above `nbits` are 0. -/
def decodeTableWord (nbits w : Nat) : Option Instr :=
  if nbits ≤ 32 then
    match decodeWord (BitVec.ofNat 32 (w % 2 ^ nbits)) with
    | .ok i => some i
    | .error _ => none
  else none

end Sys2Proof
end

