-- ==== Sys2Proof/Machine/Flags.lean ====
section
/-! DEFINITION. The domain-separation flags of each compression (42_chunk_pipeline.md R111, R113, R115,
43_accumulator.md R125), the STATUS word (10_state.md R21, 60_exceptions.md R152) and the interrupt output
(R157). The engine has no condition codes (R17). -/

namespace Sys2Proof.Machine

/-- `start_flag(CS)`: CHUNK_START if `CS.blocks == 0` else 0 (R111). -/
def startFlag (blocks : Fin 16) : DomainFlags := if blocks = 0 then chunkStart else 0

/-- The flags of an intermediate block (R112): `H_MODE | start_flag(CS)`. -/
def blockFlags (hMode : DomainFlags) (blocks : Fin 16) : DomainFlags := hMode ||| startFlag blocks

/-- The flags of a chunk's final block, without ROOT (R113): `H_MODE | CHUNK_END | start_flag(CS)`. -/
def finalFlags (hMode : DomainFlags) (blocks : Fin 16) : DomainFlags := hMode ||| chunkEnd ||| startFlag blocks

/-- The flags of a parent node, without ROOT (R125): `H_MODE | PARENT`. -/
def parentFlags (hMode : DomainFlags) : DomainFlags := hMode ||| parent

/-- The code as STATUS.ERR_CODE shows it (R152). -/
def ErrorCode.code : ErrorCode → BitVec 4
  | .illegalCmd => 1
  | .range => 2
  | .noSeed => 3
  | .overflow => 4
  | .busy => 5
  | .bus => 6

/-- STATUS.BUSY (R21): PENDING is not empty (R45, R149). -/
def State.busy (s : State) : Bool := s.pending.isSome

/-- STATUS.ERR (R21). -/
def State.errBit (s : State) : Bool := s.err.isSome

/-- STATUS.ERR_CODE (R21): "0 when ERR = 0". -/
def State.errCode (s : State) : BitVec 4 :=
  match s.err with
  | none => 0
  | some e => e.code

/-- STATUS as a word (R21): BUSY bit 0, DONE bit 1, ERR bit 2, SEED_VALID bit 3, ERR_CODE bits [11:8], the
rest 0. -/
def statusWord (busy done err seedValid : Bool) (code : BitVec 4) : Word :=
  (0 : BitVec 20) ++ code ++ (0 : BitVec 4) ++
    (BitVec.ofBool seedValid ++ BitVec.ofBool err ++ BitVec.ofBool done ++ BitVec.ofBool busy)

/-- IRQ_EN.DONE_IE (R22). -/
def State.doneIe (s : State) : Bool := s.irqEn.getLsbD 0

/-- IRQ_EN.ERR_IE (R22). -/
def State.errIe (s : State) : Bool := s.irqEn.getLsbD 1

/-- The interrupt output, a level (R157). -/
def State.irq (s : State) : Bool := (s.done && s.doneIe) || (s.errBit && s.errIe)

end Sys2Proof.Machine
end

