-- ==== Sys2Proof/Machine/Ops.lean ====
section
/-! DEFINITION. The named operations: DBUF's bytes (20_memory.md R52, R55), recording an error and clearing it
(60_exceptions.md R153, R160), acceptance and completion of a command (R149), and reset (70_reset_and_hazards.md
R169). -/

namespace Sys2Proof.Machine

/-! ### DBUF (R35) -/

/-- The byte written at offset `a`, if one was. -/
def dbufLookup : List Host.Cell → Nat → Option Byte
  | [], _ => none
  | (a', b) :: rest, a => if a = a' then some b else dbufLookup rest a

/-- Writing byte `b` at offset `a`, in the canonical form: offsets strictly rising. -/
def dbufInsert : List Host.Cell → Nat → Byte → List Host.Cell
  | [], a, b => [(a, b)]
  | (a', b') :: rest, a, b =>
    if a < a' then (a, b) :: (a', b') :: rest
    else if a = a' then (a, b) :: rest
    else (a', b') :: dbufInsert rest a b

/-- Every offset is above `lo` or equal to it, they rise strictly, and they are below 4096. -/
def dbufWfFrom : Nat → List Host.Cell → Bool
  | _, [] => true
  | lo, (a, _) :: rest => decide (lo ≤ a) && decide (a < dbufBytes) && dbufWfFrom (a + 1) rest

/-- The canonical form of DBUF: offsets strictly rising and below 4096 (log 5). -/
def Memory.wf (m : List Host.Cell) : Bool := dbufWfFrom 0 m

/-- The byte of DBUF at byte offset `a`: the byte written there, or, where nothing has been written since reset,
the free value of R35 and U1 (log 5). -/
def dbufByte (s : State) (a : Nat) : Byte := (dbufLookup s.dbuf a).getD (Config.dbufByte s.resets a)

/-- `MemRead(off, n)`: n bytes of DBUF in ascending address order (R10, R52). -/
def memRead (s : State) (off n : Nat) : List Byte := (List.range n).map fun k => dbufByte s (off + k)

/-- A bus read of DBUF word j: the four bytes at 4j to 4j+3 (R55). -/
def dbufWord (s : State) (j : Nat) : Word :=
  le32 (dbufByte s (4 * j)) (dbufByte s (4 * j + 1)) (dbufByte s (4 * j + 2)) (dbufByte s (4 * j + 3))

/-- A bus write of `v` to DBUF word j stores `v[7:0]` at byte 4j, up to `v[31:24]` at 4j+3 (R55). -/
def dbufWriteWord (m : List Host.Cell) (j : Nat) (v : Word) : List Host.Cell :=
  dbufInsert (dbufInsert (dbufInsert (dbufInsert m (4 * j) (wordByte v 0)) (4 * j + 1) (wordByte v 1))
    (4 * j + 2) (wordByte v 2)) (4 * j + 3) (wordByte v 3)

/-! ### Views of the chunk state -/

/-- CHUNK_LEN = `CS.blocks * 64 + CS.buf_len` (R27). -/
def ChunkState.chunkLen (cs : ChunkState) : Nat := cs.blocks.val * blockBytes + cs.bufLen.val

/-- The bytes consumed since INIT or reset: `CS.ctr * 1024 + CHUNK_LEN` (R121). -/
def ChunkState.totalBytes (cs : ChunkState) : Nat := cs.ctr.toNat * chunkBytes + cs.chunkLen

/-- STACK_DEPTH (R28). -/
def HashState.depth (h : HashState) : Nat := h.stack.length

/-! ### Recording an error, the engine's only "exception entry" (R153, R159), and clearing it (R160) -/

/-- `record(e)` (R153): the first error is kept, and nothing else changes. -/
def recordError (e : ErrorCode) (s : State) : State :=
  match s.err with
  | none => { s with err := some e }
  | some _ => s

/-- A write of `v` to STATUS (R21, R150, R153): bit 1 = 1 clears DONE, bit 2 = 1 clears ERR and ERR_CODE, every
other bit is ignored. -/
def writeStatus (v : Word) (s : State) : State :=
  { s with
    done := s.done && !(v.getLsbD 1)
    err := if v.getLsbD 2 then none else s.err }

/-! ### The command protocol (R149) -/

/-- The checks of R81 on a decoded command, in its order: RANGE, NO_SEED, OVERFLOW. -/
def acceptError (i : Instr) (s : State) : Option ErrorCode :=
  if i.wellFormed = false then some .range
  else if i = .xof ∧ s.seedValid = false then some .noSeed
  else if i.opcode = 2 ∧ s.hash.cs.totalBytes + i.len.toNat > maxInputBytes then some .overflow
  else none

/-- Acceptance (R149.1): BUSY <- 1 and PENDING <- the command; nothing else changes. -/
def accept (i : Instr) (s : State) : State := { s with pending := some i }

/-- Completion (R149.2): BUSY <- 0, PENDING empty, DONE <- 1. -/
def complete (s : State) : State := { s with pending := none, done := true }

/-- The word `w` submitted while BUSY = 0 (R73, R81): rejected with its error, or accepted. -/
def submit (w : Word) (s : State) : State :=
  match decodeWord w with
  | .error _ => recordError .illegalCmd s
  | .ok i =>
    match acceptError i s with
    | some e => recordError e s
    | none => accept i s

/-! ### Reset (R169, R170) -/

/-- The reset input asserted and released (R169): every register and all hidden state at its reset value, a
pending command abandoned (R170), DBUF unspecified anew (R35). The model's own record of the outside world
stays. -/
def resetEngine (s : State) : State :=
  { State.reset with
    inputs := s.inputs
    replies := s.replies
    draws := s.draws
    resets := s.resets + 1 }

end Sys2Proof.Machine
end

