-- ==== Sys2Proof/Machine/ChunkPipeline.lean ====
section
/-! DEFINITION. The chunk pipeline's chunk-level functions (42_chunk_pipeline.md R110 to R113), the accumulator
(43_accumulator.md R125 to R127), the byte loop of UPDATE (R117), and the meanings of INIT (R116) and UPDATE. -/

namespace Sys2Proof.Machine

/-! ### Chunk level -/

/-- `new_chunk(ctr)` (R110). -/
def newChunk (hKey : Cv) (ctr : Counter) : ChunkState where
  cv := hKey
  ctr := ctr
  buf := Vector.replicate 64 0
  bufLen := 0
  blocks := 0

/-- The valid bytes of the block buffer, `CS.buf[0 .. CS.buf_len-1]` (R113). -/
def ChunkState.valid (cs : ChunkState) : List Byte := cs.buf.toList.take cs.bufLen.val

/-- The operands of one full intermediate block (R112). -/
def blockOperands (hMode : DomainFlags) (cs : ChunkState) : Operands where
  cv := cs.cv
  m := words16 cs.buf.toList
  counter := cs.ctr
  blockLen := 64
  flags := blockFlags hMode cs.blocks

/-- `compress_block(CS)` (R112); its precondition `CS.buf_len == 64` is checked by its caller. `CS.blocks` is
below 15 there (R118), so the increment does not wrap. -/
def compressBlock (hMode : DomainFlags) (cs : ChunkState) : ChunkState where
  cv := chainingValue (blockOperands hMode cs)
  ctr := cs.ctr
  buf := Vector.replicate 64 0
  bufLen := 0
  blocks := cs.blocks + 1

/-- `chunk_output(CS)` (R113): the final-block parameters of the chunk, without ROOT. -/
def chunkOutput (hMode : DomainFlags) (cs : ChunkState) : Operands where
  cv := cs.cv
  m := words16 cs.valid
  counter := cs.ctr
  blockLen := BitVec.ofNat 32 cs.bufLen.val
  flags := finalFlags hMode cs.blocks

/-- `chunk_cv(CS)` (R113). -/
def chunkCv (hMode : DomainFlags) (cs : ChunkState) : Cv := chainingValue (chunkOutput hMode cs)

/-- `CS.buf[CS.buf_len] <- x; CS.buf_len <- CS.buf_len + 1` (R117). The caller has made room. -/
def appendByte (cs : ChunkState) (x : Byte) : ChunkState :=
  { cs with
    buf := cs.buf.setIfInBounds cs.bufLen.val x
    bufLen := cs.bufLen + 1 }

/-! ### The accumulator -/

/-- `parent_output(left, right)` (R125). -/
def parentOutput (hKey : Cv) (hMode : DomainFlags) (left right : Cv) : Operands where
  cv := hKey
  m := concat8 left right
  counter := 0
  blockLen := 64
  flags := parentFlags hMode

/-- `parent_cv(left, right)` (R126). -/
def parentCv (hKey : Cv) (hMode : DomainFlags) (left right : Cv) : Cv :=
  chainingValue (parentOutput hKey hMode left right)

/-- `acc_push(cv, total)` on the stack, top first (R127): while total is even and the stack is not empty, pop
the left neighbour, merge, and halve total; then push once. -/
def accPush (hKey : Cv) (hMode : DomainFlags) : List Cv → Cv → Counter → List Cv
  | [], cur, _ => [cur]
  | left :: rest, cur, total =>
    if total.getLsbD 0 then cur :: left :: rest
    else accPush hKey hMode rest (parentCv hKey hMode left cur) (total >>> 1)

/-- Chunk emission (R120): the full chunk's CV is pushed with `total = CS.ctr + 1`, and chunk `total` opens. -/
def emitChunk (h : HashState) : HashState :=
  { h with
    stack := accPush h.hKey h.hMode h.stack (chunkCv h.hMode h.cs) (h.cs.ctr + 1)
    cs := newChunk h.hKey (h.cs.ctr + 1) }

/-! ### The byte loop of UPDATE -/

/-- "chunk full and another byte arrives" (R117, R119). -/
def makeChunkRoom (h : HashState) : HashState := if h.cs.chunkLen = chunkBytes then emitChunk h else h

/-- "block full and another byte arrives" (R117, R118). -/
def makeBlockRoom (h : HashState) : HashState :=
  if h.cs.bufLen.val = blockBytes then { h with cs := compressBlock h.hMode h.cs } else h

/-- One iteration of UPDATE's loop (R117). -/
def absorbByte (h : HashState) (x : Byte) : HashState :=
  let h := makeBlockRoom (makeChunkRoom h)
  { h with cs := appendByte h.cs x }

/-- The loop of UPDATE over a byte string, in ascending order (R117). -/
def absorb (h : HashState) (xs : List Byte) : HashState := xs.foldl absorbByte h

/-! ### The four-chunk path of R108 and R109

An internal schedule the engine may use inside UPDATE in place of the byte loop: the sixteen blocks of four
chunks in lockstep, one chunk per lane. It cannot be told from `absorb`. -/

/-- The operands of block `b` of a whole 1024-byte chunk with counter `ctr` (R112, R113, R115). -/
def wholeChunkBlock (hMode : DomainFlags) (cv : Cv) (ctr : Counter) (chunk : List Byte) (b : Fin 16) : Operands where
  cv := cv
  m := words16 ((chunk.drop (64 * b.val)).take 64)
  counter := ctr
  blockLen := 64
  flags := if b = 15 then finalFlags hMode b else blockFlags hMode b

/-- The chaining values of four whole chunks c, c+1, c+2, c+3, blocks in lockstep (R108). -/
def fourChunkCvs (hKey : Cv) (hMode : DomainFlags) (ctr : Counter) (chunks : Vector (List Byte) 4) : Vector Cv 4 :=
  (List.finRange 16).foldl
    (fun cvs b =>
      (compress4 (Vector.ofFn fun k : Fin 4 =>
        wholeChunkBlock hMode cvs[k.val] (ctr + BitVec.ofNat 64 k.val) chunks[k.val] b)).map first8)
    (Vector.replicate 4 hKey)

/-- Four whole chunks absorbed by the batched path, when another byte is known to follow and the current chunk
is empty: the CVs enter the accumulator one at a time in chunk order, each with total its counter + 1 (R109). -/
def absorbFourChunks (h : HashState) (chunks : Vector (List Byte) 4) : HashState :=
  let cvs := fourChunkCvs h.hKey h.hMode h.cs.ctr chunks
  { h with
    stack := (List.finRange 4).foldl
      (fun st k => accPush h.hKey h.hMode st cvs[k.val] (h.cs.ctr + BitVec.ofNat 64 k.val + 1)) h.stack
    cs := newChunk h.hKey (h.cs.ctr + 4) }

/-! ### The meanings -/

/-- The hash state INIT leaves (R116): key and mode latched, chunk 0 open, the stack empty. -/
def initialHash (key : Cv) (mode : DomainFlags) : HashState where
  hKey := key
  hMode := mode
  cs := newChunk key 0
  stack := []

/-- INIT (R116). -/
def execInit (s : State) : Host.Outcome State Fault Refusal :=
  .next (complete { s with hash := initialHash s.key s.mode, seedValid := false, xofCtr := 0 })

/-- UPDATE off, len (R117): the LEN bytes DBUF[OFF .. OFF+LEN-1] appended to the hash input (R78). -/
def execUpdate (off : BitVec 12) (len : BitVec 13) (s : State) : Host.Outcome State Fault Refusal :=
  .next (complete { s with hash := absorb s.hash (memRead s off.toNat len.toNat) })

end Sys2Proof.Machine
end

