-- ==== Sys2Proof/Machine/Accumulator.lean ====
section
/-! DEFINITION. Deriving the root's output seed: the fold over the CV stack and the meaning of FINALIZE
(43_accumulator.md R131 to R135). -/

namespace Sys2Proof.Machine

/-- The fold of R131: from the top of the stack down, the CV of everything right of the entry (without ROOT)
becomes the right half of a parent. -/
def foldStack (hKey : Cv) (hMode : DomainFlags) : List Cv → Operands → Operands
  | [], o => o
  | left :: rest, o => foldStack hKey hMode rest (parentOutput hKey hMode left (chainingValue o))

/-- The output seed of the input consumed so far (R131). -/
def rootSeed (h : HashState) : Operands := foldStack h.hKey h.hMode h.stack (chunkOutput h.hMode h.cs)

/-- The SEED registers that hold a tuple (R131); its counter is not stored (R134). -/
def seedOf (o : Operands) : Seed where
  cv := o.cv
  m := o.m
  blockLen := o.blockLen
  flags := o.flags

/-- FINALIZE (R131): the hash state is read and not changed (R135). -/
def execFinalize (s : State) : Host.Outcome State Fault Refusal :=
  .next (complete { s with seed := seedOf (rootSeed s.hash), seedValid := true, xofCtr := 0 })

end Sys2Proof.Machine
end

