-- ==== Sys2Proof/Machine/Lanes.lean ====
section
/-! DEFINITION. Direct access to the compression function: the meanings of COMPRESS (40_compress.md R101) and
COMPRESS4 (41_compress4.md R105). -/

namespace Sys2Proof.Machine

/-- COMPRESS (R101): one compression on lane bank 0, the full 16-word output to RES[0]. -/
def execCompress (s : State) : Host.Outcome State Fault Refusal :=
  .next (complete { s with res := s.res.set 0 (compress s.lanes[0].operands) })

/-- Words 0..7 of a result bank replaced, words 8..15 kept (R105, R34). -/
def setFirst8 (bank : Block) (cv : Cv) : Block :=
  Vector.ofFn fun i : Fin 16 => if h : i.val < 8 then cv[i.val] else bank[i.val]

/-- COMPRESS4 (R105): the four results from the operand values at acceptance, then RES[k][0..7] for every k. -/
def execCompress4 (s : State) : Host.Outcome State Fault Refusal :=
  let outs := compress4 (s.lanes.map LaneBank.operands)
  .next (complete { s with
    res := Vector.ofFn fun k : Fin 4 => setFirst8 s.res[k.val] (first8 outs[k.val]) })

end Sys2Proof.Machine
end

