-- ==== Sys2Proof/Machine/Output.lean ====
section
/-! DEFINITION. The root output stage: the meaning of XOF and the output stream (44_output.md R137 to R142). -/

namespace Sys2Proof.Machine

/-- XOF (R137): the output block at counter XOF_CTR, with ROOT set; XOF_CTR advances modulo 2^64. -/
def execXof (s : State) : Host.Outcome State Fault Refusal :=
  .next (complete { s with xout := compress (s.seed.operands s.xofCtr), xofCtr := s.xofCtr + 1 })

/-- `OUT[o]`, the byte of a seed's output stream at logical offset o (R139). -/
def outputByte (seed : Seed) (o : Nat) : Byte :=
  (bytesOf (compress (seed.operands (BitVec.ofNat 64 (o / 64)))).toList).getD (o % 64) 0

/-- `OUT[0 .. n-1]`: the n-byte output (R142, R143). -/
def outputBytes (seed : Seed) (n : Nat) : List Byte := (List.range n).map (outputByte seed)

end Sys2Proof.Machine
end

