-- ==== Sys2Proof/Machine/Dispatch.lean ====
section
/-! DEFINITION. The meaning of each command: the atomic engine step of 60_exceptions.md R149.2. -/

namespace Sys2Proof.Machine

def exec (i : Instr) (s : State) : Host.Outcome State Fault Refusal :=
  match i with
  | .init => Sys2Proof.Machine.execInit s
  | .update off len => Sys2Proof.Machine.execUpdate off len s
  | .finalize => Sys2Proof.Machine.execFinalize s
  | .xof => Sys2Proof.Machine.execXof s
  | .compress => Sys2Proof.Machine.execCompress s
  | .compress4 => Sys2Proof.Machine.execCompress4 s

end Sys2Proof.Machine
end

