-- ==== Sys2Proof/Machine/Registers.lean ====
section
/-! DEFINITION. The register map (10_state.md R18) and the host's bus accesses (20_memory.md R59 to R63,
60_exceptions.md R151, R154). -/

namespace Sys2Proof.Machine

/-- The 32-bit registers of the map (R18), the lane banks field by field (R32), DBUF word by word (R35), and one
name for every offset that is reserved (R39). -/
inductive Reg where
  | id
  | cmd
  | status
  | irqEn
  | mode
  | key (i : Fin 8)
  | xofCtrLo
  | xofCtrHi
  | chunkCtrLo
  | chunkCtrHi
  | chunkLen
  | stackDepth
  | seedBlen
  | seedFlags
  | seedCv (i : Fin 8)
  | seedM (i : Fin 16)
  | xout (i : Fin 16)
  | laneCv (k : Fin 4) (i : Fin 8)
  | laneM (k : Fin 4) (i : Fin 16)
  | laneCtrLo (k : Fin 4)
  | laneCtrHi (k : Fin 4)
  | laneBlen (k : Fin 4)
  | laneFlags (k : Fin 4)
  | res (k : Fin 4) (i : Fin 16)
  | dbuf (j : Fin 1024)
  | reserved
deriving DecidableEq, Repr

/-- The register's bus offset (R18, R32); the reserved offsets have no one offset. -/
def Reg.offset : Reg → Option Nat
  | .id => some 0x0000
  | .cmd => some 0x0004
  | .status => some 0x0008
  | .irqEn => some 0x000C
  | .mode => some 0x0010
  | .key i => some (0x0020 + 4 * i.val)
  | .xofCtrLo => some 0x0040
  | .xofCtrHi => some 0x0044
  | .chunkCtrLo => some 0x0048
  | .chunkCtrHi => some 0x004C
  | .chunkLen => some 0x0050
  | .stackDepth => some 0x0054
  | .seedBlen => some 0x0068
  | .seedFlags => some 0x006C
  | .seedCv i => some (0x0080 + 4 * i.val)
  | .seedM i => some (0x00C0 + 4 * i.val)
  | .xout i => some (0x0100 + 4 * i.val)
  | .laneCv k i => some (0x0200 + 0x80 * k.val + 4 * i.val)
  | .laneM k i => some (0x0200 + 0x80 * k.val + 0x20 + 4 * i.val)
  | .laneCtrLo k => some (0x0200 + 0x80 * k.val + 0x60)
  | .laneCtrHi k => some (0x0200 + 0x80 * k.val + 0x64)
  | .laneBlen k => some (0x0200 + 0x80 * k.val + 0x68)
  | .laneFlags k => some (0x0200 + 0x80 * k.val + 0x6C)
  | .res k i => some (0x0400 + 0x40 * k.val + 4 * i.val)
  | .dbuf j => some (0x1000 + 4 * j.val)
  | .reserved => none

/-- The lane-bank register at relative offset `rel` of bank k (R32). -/
def Reg.ofLaneOffset (k : Fin 4) (rel : Nat) : Reg :=
  if h : rel < 0x20 then .laneCv k ⟨rel / 4, by omega⟩
  else if h : rel < 0x60 then .laneM k ⟨(rel - 0x20) / 4, by omega⟩
  else if rel < 0x64 then .laneCtrLo k
  else if rel < 0x68 then .laneCtrHi k
  else if rel < 0x6C then .laneBlen k
  else if rel < 0x70 then .laneFlags k
  else .reserved

/-- The register a 4-byte-aligned offset of the aperture names (R18); every other offset is reserved (R39). -/
def Reg.ofOffset (off : Nat) : Reg :=
  if off < 0x0004 then .id
  else if off < 0x0008 then .cmd
  else if off < 0x000C then .status
  else if off < 0x0010 then .irqEn
  else if off < 0x0014 then .mode
  else if off < 0x0020 then .reserved
  else if h : off < 0x0040 then .key ⟨(off - 0x0020) / 4, by omega⟩
  else if off < 0x0044 then .xofCtrLo
  else if off < 0x0048 then .xofCtrHi
  else if off < 0x004C then .chunkCtrLo
  else if off < 0x0050 then .chunkCtrHi
  else if off < 0x0054 then .chunkLen
  else if off < 0x0058 then .stackDepth
  else if off < 0x0068 then .reserved
  else if off < 0x006C then .seedBlen
  else if off < 0x0070 then .seedFlags
  else if off < 0x0080 then .reserved
  else if h : off < 0x00A0 then .seedCv ⟨(off - 0x0080) / 4, by omega⟩
  else if off < 0x00C0 then .reserved
  else if h : off < 0x0100 then .seedM ⟨(off - 0x00C0) / 4, by omega⟩
  else if h : off < 0x0140 then .xout ⟨(off - 0x0100) / 4, by omega⟩
  else if off < 0x0200 then .reserved
  else if h : off < 0x0400 then Reg.ofLaneOffset ⟨(off - 0x0200) / 0x80, by omega⟩ ((off - 0x0200) % 0x80)
  else if h : off < 0x0500 then .res ⟨(off - 0x0400) / 0x40, by omega⟩ ⟨(off - 0x0400) % 0x40 / 4, by omega⟩
  else if off < 0x1000 then .reserved
  else if h : off < 0x2000 then .dbuf ⟨(off - 0x1000) / 4, by omega⟩
  else .reserved

/-- The bus offset of a bus address, with ENGINE_BASE a parameter (R50, U4; log 7): the engine decodes the 8192
bytes from ENGINE_BASE and nothing else. -/
def offsetOf (engineBase addr : Nat) : Option Nat :=
  if engineBase ≤ addr ∧ addr < engineBase + apertureBytes then some (addr - engineBase) else none

/-! ### What a register holds -/

/-- STATUS as it stands (R21). -/
def State.status (s : State) : Word := statusWord s.busy s.done s.errBit s.seedValid s.errCode

/-- The true value of a register (R19 to R35, R39). -/
def readReg (r : Reg) (s : State) : Word :=
  match r with
  | .id => idWord
  | .cmd => 0
  | .status => s.status
  | .irqEn => s.irqEn.setWidth 32
  | .mode => s.mode.setWidth 32
  | .key i => s.key[i]
  | .xofCtrLo => ctrLow s.xofCtr
  | .xofCtrHi => ctrHigh s.xofCtr
  | .chunkCtrLo => ctrLow s.hash.cs.ctr
  | .chunkCtrHi => ctrHigh s.hash.cs.ctr
  | .chunkLen => BitVec.ofNat 32 s.hash.cs.chunkLen
  | .stackDepth => BitVec.ofNat 32 s.hash.depth
  | .seedBlen => s.seed.blockLen
  | .seedFlags => s.seed.flags.setWidth 32
  | .seedCv i => s.seed.cv[i]
  | .seedM i => s.seed.m[i]
  | .xout i => s.xout[i]
  | .laneCv k i => s.lanes[k].cv[i]
  | .laneM k i => s.lanes[k].m[i]
  | .laneCtrLo k => s.lanes[k].ctrLo
  | .laneCtrHi k => s.lanes[k].ctrHi
  | .laneBlen k => s.lanes[k].blockLen
  | .laneFlags k => s.lanes[k].flags.setWidth 32
  | .res k i => s.res[k][i]
  | .dbuf j => dbufWord s j
  | .reserved => 0

/-- The registers of R46, which a bus read sees as UNSPECIFIED while BUSY = 1 (STATUS.SEED_VALID is treated in
`busValue`). -/
def Reg.engineWritten : Reg → Bool
  | .xofCtrLo => true
  | .xofCtrHi => true
  | .chunkCtrLo => true
  | .chunkCtrHi => true
  | .chunkLen => true
  | .stackDepth => true
  | .seedBlen => true
  | .seedFlags => true
  | .seedCv _ => true
  | .seedM _ => true
  | .xout _ => true
  | .res _ _ => true
  | .id => false
  | .cmd => false
  | .status => false
  | .irqEn => false
  | .mode => false
  | .key _ => false
  | .laneCv _ _ => false
  | .laneM _ _ => false
  | .laneCtrLo _ => false
  | .laneCtrHi _ => false
  | .laneBlen _ => false
  | .laneFlags _ => false
  | .dbuf _ => false
  | .reserved => false

/-- The write targets refused while BUSY = 1 (R151, first two rows of its table). -/
def Reg.refusedWhileBusy : Reg → Bool
  | .cmd => true
  | .mode => true
  | .key _ => true
  | .xofCtrLo => true
  | .xofCtrHi => true
  | .laneCv _ _ => true
  | .laneM _ _ => true
  | .laneCtrLo _ => true
  | .laneCtrHi _ => true
  | .laneBlen _ => true
  | .laneFlags _ => true
  | .dbuf _ => true
  | .id => false
  | .status => false
  | .irqEn => false
  | .chunkCtrLo => false
  | .chunkCtrHi => false
  | .chunkLen => false
  | .stackDepth => false
  | .seedBlen => false
  | .seedFlags => false
  | .seedCv _ => false
  | .seedM _ => false
  | .xout _ => false
  | .res _ _ => false
  | .reserved => false

/-- STATUS read while BUSY = 1: SEED_VALID (bit 3) is UNSPECIFIED, the other bits are true (R46). -/
def statusWhileBusy (draw : Word) (s : State) : Word :=
  statusWord s.busy s.done s.errBit (draw.getLsbD 3) s.errCode

/-- What a bus read of a register returns (R46, U2): its true value, or, while BUSY = 1, the free value of an
engine-written register (log 6). -/
def busValue (r : Reg) (s : State) : Word :=
  if s.busy then
    if r.engineWritten then Config.busyRead s.draws
    else if r = .status then statusWhileBusy (Config.busyRead s.draws) s
    else readReg r s
  else readReg r s

/-! ### Writing a register -/

/-- One lane bank replaced. -/
def setLane (k : Fin 4) (f : LaneBank → LaneBank) (s : State) : State :=
  { s with lanes := s.lanes.set k (f s.lanes[k]) }

/-- A write that is not refused (R20 to R35, R38, R39): registers that are read-only and reserved offsets ignore
it, a reserved field keeps reading 0, a write to CMD submits a command (R73). -/
def writeReg (r : Reg) (v : Word) (s : State) : State :=
  match r with
  | .cmd => submit v s
  | .status => writeStatus v s
  | .irqEn => { s with irqEn := v.setWidth 2 }
  | .mode => { s with mode := v.setWidth 8 }
  | .key i => { s with key := s.key.set i v }
  | .xofCtrLo => { s with xofCtr := ctrOf (ctrHigh s.xofCtr) v }
  | .xofCtrHi => { s with xofCtr := ctrOf v (ctrLow s.xofCtr) }
  | .laneCv k i => setLane k (fun b => { b with cv := b.cv.set i v }) s
  | .laneM k i => setLane k (fun b => { b with m := b.m.set i v }) s
  | .laneCtrLo k => setLane k (fun b => { b with ctrLo := v }) s
  | .laneCtrHi k => setLane k (fun b => { b with ctrHi := v }) s
  | .laneBlen k => setLane k (fun b => { b with blockLen := v }) s
  | .laneFlags k => setLane k (fun b => { b with flags := v.setWidth 8 }) s
  | .dbuf j => { s with dbuf := dbufWriteWord s.dbuf j v }
  | .id => s
  | .chunkCtrLo => s
  | .chunkCtrHi => s
  | .chunkLen => s
  | .stackDepth => s
  | .seedBlen => s
  | .seedFlags => s
  | .seedCv _ => s
  | .seedM _ => s
  | .xout _ => s
  | .res _ _ => s
  | .reserved => s

/-- A write to a register (R151): refused with ERR_BUSY while BUSY = 1 where the target says so. -/
def writeRegister (r : Reg) (v : Word) (s : State) : State :=
  if s.busy && r.refusedWhileBusy then recordError .busy s else writeReg r v s

/-- An access the bus allows: 32 bits wide at an offset that is a multiple of 4 (R59). -/
def validAccess (width off : Nat) : Bool := decide (width = 32) && decide (off % 4 = 0)

/-- One value returned to the host (log 8). -/
def reply (v : Word) (s : State) : State := { s with replies := s.replies ++ [v] }

/-- A read of a register while BUSY = 1 takes one draw, whichever register it reads (U2; log 6). -/
def drawn (s : State) : State := if s.busy then { s with draws := s.draws + 1 } else s

/-- `BusWrite(off, v)`, `width` bits wide (R59, R63, R151, R154). -/
def busWrite (width off : Nat) (v : Word) (s : State) : Host.Outcome State Fault Refusal :=
  if apertureBytes ≤ off then .refused .outsideAperture
  else if validAccess width off then .next (writeRegister (Reg.ofOffset off) v s)
  else .next (recordError .bus s)

/-- `BusRead(off)`, `width` bits wide (R46, R59, R63): the value goes to the host; an invalid access returns 0
and records ERR_BUS. -/
def busRead (width off : Nat) (s : State) : Host.Outcome State Fault Refusal :=
  if apertureBytes ≤ off then .refused .outsideAperture
  else if validAccess width off then .next (drawn (reply (busValue (Reg.ofOffset off) s) s))
  else .next (reply 0 (recordError .bus s))

end Sys2Proof.Machine
end

