-- ==== Sys2Proof/Machine/Step.lean ====
section
/-! DEFINITION. One step of the engine: the next event of `inputs`, or the pending command (00_scope.md R14,
60_exceptions.md R149, 70_reset_and_hazards.md R180; log 1, 2, 11). -/

namespace Sys2Proof.Machine

/-- The engine's turn: the pending command runs, or the idle engine waits (R16, R149, R171). -/
def engineStep (s : State) : Host.Outcome State Fault Refusal :=
  match s.pending with
  | some i => exec i s
  | none => .next s

/-- One step. The oldest entry of `inputs` is taken and acts; when there is none, the engine has its turn, so
that an accepted command is never left behind (R149.3, R180). -/
def step (s : State) : Host.Outcome State Fault Refusal :=
  match s.inputs with
  | [] => engineStep s
  | .engineTurn :: rest => engineStep { s with inputs := rest }
  | .write width off v :: rest => busWrite width off v { s with inputs := rest }
  | .read width off :: rest => busRead width off { s with inputs := rest }
  | .reset :: rest => .next (resetEngine { s with inputs := rest })

/-- `s` with the command word `w` placed where `step` takes its next command: PENDING (R45), which `step` runs on
the engine's turn (log 2). A word that is no well-formed command can stand in PENDING in no machine: it is the
next CMD write, which `step` rejects as R81 says. -/
def State.withFetchWord (s : State) (nbits w : Nat) : State :=
  let rejected : State :=
    { s with pending := none, inputs := .write 32 0x0004 (BitVec.ofNat 32 (w % 2 ^ nbits)) :: s.inputs }
  match decodeTableWord nbits w with
  | some i =>
    if i.wellFormed then
      { s with
        pending := some i
        inputs := match s.inputs with
          | [] => []
          | e :: rest => .engineTurn :: e :: rest }
    else rejected
  | none => rejected

end Sys2Proof.Machine
end

