-- ==== Sys2Proof/Machine/Assembler.lean ====
section
/-! DEFINITION. The text forms of 30_encoding.md R84 and R85: commands by mnemonic, and the host lines `WR off, v`
and `RD off -> name`, one per line, with `;` beginning a comment. Text is a list of characters. -/

namespace Sys2Proof.Machine

/-- The value of one digit in a base up to 16. -/
def digitValue (base : Nat) (c : Char) : Option Nat :=
  let n := c.toNat
  let v := if 48 ≤ n ∧ n ≤ 57 then some (n - 48)
    else if 97 ≤ n ∧ n ≤ 102 then some (n - 87)
    else if 65 ≤ n ∧ n ≤ 70 then some (n - 55)
    else none
  v.bind fun d => if d < base then some d else none

/-- The digits of a number after the value read so far. -/
def digitsValue (base : Nat) : List Char → Nat → Option Nat
  | [], acc => some acc
  | c :: rest, acc => (digitValue base c).bind fun d => digitsValue base rest (base * acc + d)

/-- A number: decimal, or hexadecimal with a `0x` prefix (R84). -/
def parseNumber : List Char → Option Nat
  | '0' :: 'x' :: c :: rest => digitsValue 16 (c :: rest) 0
  | [] => none
  | cs => digitsValue 10 cs 0

/-- The words of a line up to a comment (R85), separated by spaces and commas; `word` is the one being read,
its last character first. -/
def lineTokens : List Char → List Char → List (List Char)
  | [], word => if word.isEmpty then [] else [word.reverse]
  | c :: rest, word =>
    if c = ';' then (if word.isEmpty then [] else [word.reverse])
    else if c = ' ' ∨ c = ',' then (if word.isEmpty then lineTokens rest [] else word.reverse :: lineTokens rest [])
    else lineTokens rest (c :: word)

/-- A command in the syntax of R84: a bare mnemonic, or `UPDATE off, len` with operands the fields can hold. -/
def assemble (line : List Char) : Option Instr :=
  match lineTokens line [] with
  | [m] =>
    if m = ['I', 'N', 'I', 'T'] then some .init
    else if m = ['F', 'I', 'N', 'A', 'L', 'I', 'Z', 'E'] then some .finalize
    else if m = ['X', 'O', 'F'] then some .xof
    else if m = ['C', 'O', 'M', 'P', 'R', 'E', 'S', 'S'] then some .compress
    else if m = ['C', 'O', 'M', 'P', 'R', 'E', 'S', 'S', '4'] then some .compress4
    else none
  | [m, a, b] =>
    if m = ['U', 'P', 'D', 'A', 'T', 'E'] then
      (parseNumber a).bind fun off => (parseNumber b).bind fun len =>
        if off < 4096 ∧ len < 8192 then some (.update (BitVec.ofNat 12 off) (BitVec.ofNat 13 len)) else none
    else none
  | _ => none

/-- A register name and its indices, `NAME[a][b]`: the name, then each bracketed text. -/
def nameParts : List Char → List Char → List (List Char)
  | [], word => if word.isEmpty then [] else [word.reverse]
  | c :: rest, word =>
    if c = '[' ∨ c = ']' then (if word.isEmpty then nameParts rest [] else word.reverse :: nameParts rest [])
    else nameParts rest (c :: word)

/-- The registers with no index (R18). -/
def plainRegister (name : List Char) : Option Reg :=
  if name = ['I', 'D'] then some .id
  else if name = ['C', 'M', 'D'] then some .cmd
  else if name = ['S', 'T', 'A', 'T', 'U', 'S'] then some .status
  else if name = ['I', 'R', 'Q', '_', 'E', 'N'] then some .irqEn
  else if name = ['M', 'O', 'D', 'E'] then some .mode
  else if name = ['X', 'O', 'F', '_', 'C', 'T', 'R', '_', 'L', 'O'] then some .xofCtrLo
  else if name = ['X', 'O', 'F', '_', 'C', 'T', 'R', '_', 'H', 'I'] then some .xofCtrHi
  else if name = ['C', 'H', 'U', 'N', 'K', '_', 'C', 'T', 'R', '_', 'L', 'O'] then some .chunkCtrLo
  else if name = ['C', 'H', 'U', 'N', 'K', '_', 'C', 'T', 'R', '_', 'H', 'I'] then some .chunkCtrHi
  else if name = ['C', 'H', 'U', 'N', 'K', '_', 'L', 'E', 'N'] then some .chunkLen
  else if name = ['S', 'T', 'A', 'C', 'K', '_', 'D', 'E', 'P', 'T', 'H'] then some .stackDepth
  else if name = ['S', 'E', 'E', 'D', '_', 'B', 'L', 'E', 'N'] then some .seedBlen
  else if name = ['S', 'E', 'E', 'D', '_', 'F', 'L', 'A', 'G', 'S'] then some .seedFlags
  else none

/-- An index below a bound. -/
def parseIndex (bound : Nat) (cs : List Char) : Option (Fin bound) :=
  (parseNumber cs).bind fun n => if h : n < bound then some ⟨n, h⟩ else none

/-- The registers with one index (R18, R32). -/
def indexedRegister (name idx : List Char) : Option Reg :=
  if name = ['K', 'E', 'Y'] then (parseIndex 8 idx).map .key
  else if name = ['S', 'E', 'E', 'D', '_', 'C', 'V'] then (parseIndex 8 idx).map .seedCv
  else if name = ['S', 'E', 'E', 'D', '_', 'M'] then (parseIndex 16 idx).map .seedM
  else if name = ['X', 'O', 'U', 'T'] then (parseIndex 16 idx).map .xout
  else if name = ['L', '_', 'C', 'T', 'R', '_', 'L', 'O'] then (parseIndex 4 idx).map .laneCtrLo
  else if name = ['L', '_', 'C', 'T', 'R', '_', 'H', 'I'] then (parseIndex 4 idx).map .laneCtrHi
  else if name = ['L', '_', 'B', 'L', 'E', 'N'] then (parseIndex 4 idx).map .laneBlen
  else if name = ['L', '_', 'F', 'L', 'A', 'G', 'S'] then (parseIndex 4 idx).map .laneFlags
  else none

/-- The registers with two indices (R18, R32). -/
def bankRegister (name idx1 idx2 : List Char) : Option Reg :=
  (parseIndex 4 idx1).bind fun k =>
    if name = ['L', '_', 'C', 'V'] then (parseIndex 8 idx2).map (.laneCv k)
    else if name = ['L', '_', 'M'] then (parseIndex 16 idx2).map (.laneM k)
    else if name = ['R', 'E', 'S'] then (parseIndex 16 idx2).map (.res k)
    else none

/-- An offset: a number, or a register name that stands for its offset (R85). -/
def parseOffset (cs : List Char) : Option Nat :=
  match parseNumber cs with
  | some n => some n
  | none =>
    match nameParts cs [] with
    | [name] => (plainRegister name).bind Reg.offset
    | [name, i] => (indexedRegister name i).bind Reg.offset
    | [name, i, j] => (bankRegister name i j).bind Reg.offset
    | _ => none

/-- A line of a host program (R85): `WR off, v` or `RD off -> name`. Every access is 32 bits wide. -/
def hostLine (line : List Char) : Option Input :=
  match lineTokens line [] with
  | [op, off, v] =>
    if op = ['W', 'R'] then
      (parseOffset off).bind fun o => (parseNumber v).bind fun n =>
        if n < 2 ^ 32 then some (.write 32 o (BitVec.ofNat 32 n)) else none
    else none
  | [op, off, arrow, _] =>
    if op = ['R', 'D'] ∧ arrow = ['-', '>'] then (parseOffset off).map fun o => .read 32 o else none
  | _ => none

end Sys2Proof.Machine
end

