-- ==== Sys2Proof/Safety.lean ====
section
/-! DEFINITION. What a good state and a run are: the invariants between commands (10_state.md R41, R43, R44, R45),
the launch premises (70_reset_and_hazards.md R182) and the end of a run with its observation (R183). -/

namespace Sys2Proof.Machine

/-- The invariants of CS (R41) and of the stack (R43); R41 (a) and the bound of R121 hold by CS's own types. -/
structure HashState.Inv (h : HashState) : Prop where
  /-- R41 (b): the buffer is zero past its valid bytes. -/
  bufZero : ∀ i : Fin 64, h.cs.bufLen.val ≤ i.val → h.cs.buf[i] = 0
  /-- R41 (c). -/
  emptyBlocks : h.cs.bufLen = 0 → h.cs.blocks = 0
  /-- R41 (d). -/
  emptyCtr : h.cs.bufLen = 0 → h.cs.ctr = 0
  /-- R43: STACK_DEPTH = popcount(CS.ctr). -/
  depth : h.depth = popcount h.cs.ctr

/-- The invariant of the engine: the hash state's, DBUF in its canonical form, SEED_BLEN a block length (R29), and a
pending command one that acceptance let through (R81, R149). -/
structure State.Inv (s : State) : Prop where
  hash : s.hash.Inv
  dbuf : Memory.wf s.dbuf = true
  seedBlen : s.seed.blockLen.toNat ≤ 64
  pending : ∀ i, s.pending = some i → acceptError i s = none

/-- CleanEntry (R182): the state of R169, DBUF's bytes draws. The model's own fields are free. -/
def CleanEntry (s : State) : Prop :=
  s = { State.reset with inputs := s.inputs, replies := s.replies, draws := s.draws, resets := s.resets }

/-- IdleEntry (R182): BUSY = 0, PENDING empty and ERR = 0. -/
def IdleEntry (s : State) : Prop := s.pending = none ∧ s.err = none

/-- A bus operation of the host (R85, R183): a write or a read; the engine's turn and the reset input are none. -/
def Input.isBusOperation : Input → Bool
  | .write _ _ _ => true
  | .read _ _ => true
  | .engineTurn => false
  | .reset => false

/-- The end of a run (R183): no bus operation of the host is left and BUSY = 0, so PENDING is empty. Turns of the engine
and resets may still wait. DESIGN CHOICE (log 20): R183 says nothing of a run cut short by reset; here these two
conditions alone decide, so a run whose last command a reset abandoned is over too. -/
def RunOver (s : State) : Prop := (∀ e ∈ s.inputs, e.isBusOperation = false) ∧ s.pending = none

/-- The observation at the end of a run (R183). -/
structure Observation where
  /-- The value of every register of R18, the n-th at offset 4n; reserved offsets read 0 (R39). -/
  registers : List Word
  /-- The hidden state of R36 to R42: H_KEY, H_MODE, CS and STACK, held whole (log 20). -/
  hidden : HashState
  /-- The IRQ level (R157). -/
  irq : Bool
deriving DecidableEq, Repr

/-- What is observed of a state (R183). -/
def observation (s : State) : Observation where
  registers := (List.range 2048).map fun n => readReg (Reg.ofOffset (4 * n)) s
  hidden := s.hash
  irq := s.irq

/-- The premise of every claim about a run unless the claim states ERR_CODE (R156, R183): ERR = 0. -/
def NoError (s : State) : Prop := s.err = none

/-! ### What the statements compare -/

/-- Every register but STATUS and those `changed` names reads as before, and so does every byte of DBUF. -/
def OtherRegsKept (changed : Reg → Prop) (s t : State) : Prop :=
  (∀ r, r ≠ .status → ¬ changed r → readReg r t = readReg r s) ∧ ∀ a, dbufByte t a = dbufByte s a

/-- The table of R169, row by row: what every piece of state holds when reset is released. DBUF's bytes are the draws
of R35 for this reset (log 5). -/
structure AtReset (t : State) : Prop where
  id : readReg .id t = 0x424C4B33
  cmd : readReg .cmd t = 0
  status : t.busy = false ∧ t.done = false ∧ t.errBit = false ∧ t.seedValid = false
  errCode : t.errCode = 0
  irqEn : readReg .irqEn t = 0
  irq : t.irq = false
  mode : readReg .mode t = 0
  key : t.key = #v[0x6A09E667, 0xBB67AE85, 0x3C6EF372, 0xA54FF53A, 0x510E527F, 0x9B05688C, 0x1F83D9AB, 0x5BE0CD19]
  xofCtr : t.xofCtr = 0
  chunkCtr : readReg .chunkCtrLo t = 0 ∧ readReg .chunkCtrHi t = 0
  chunkLen : readReg .chunkLen t = 0
  stackDepth : readReg .stackDepth t = 0
  seedBlen : readReg .seedBlen t = 0
  seedFlags : readReg .seedFlags t = 0
  seedCv : ∀ i, readReg (.seedCv i) t = 0
  seedM : ∀ i, readReg (.seedM i) t = 0
  xout : ∀ i, readReg (.xout i) t = 0
  lanes : ∀ k : Fin 4, (∀ i, readReg (.laneCv k i) t = 0) ∧ (∀ i, readReg (.laneM k i) t = 0) ∧
    readReg (.laneCtrLo k) t = 0 ∧ readReg (.laneCtrHi k) t = 0 ∧ readReg (.laneBlen k) t = 0 ∧
    readReg (.laneFlags k) t = 0
  res : ∀ k i, readReg (.res k i) t = 0
  dbuf : ∀ a, dbufByte t a = Config.dbufByte t.resets a
  hKey : t.hash.hKey = t.key
  hMode : t.hash.hMode = 0
  cs : t.hash.cs = { cv := t.key, ctr := 0, buf := Vector.replicate 64 0, bufLen := 0, blocks := 0 }
  stack : t.hash.stack = []
  pending : t.pending = none

/-! ### The subtrees on the CV stack (R43) -/

/-- The CV of chunk `i` of the input `xs` (R113, R120): chunk i started with the key words, its 1024 bytes absorbed,
its final block compressed without ROOT. -/
def chunkCvOf (key : Cv) (mode : DomainFlags) (xs : List Byte) (i : Nat) : Cv :=
  chunkCv mode
    (absorb { hKey := key, hMode := mode, cs := newChunk key (BitVec.ofNat 64 i), stack := [] }
      ((xs.drop (1024 * i)).take 1024)).cs

/-- The root CV of the complete subtree over the `2 ^ level` chunks from chunk `start` (R43). -/
def subtreeCv (key : Cv) (mode : DomainFlags) (cvs : Nat → Cv) : Nat → Nat → Cv
  | 0, start => cvs start
  | level + 1, start =>
    parentCv key mode (subtreeCv key mode cvs level start) (subtreeCv key mode cvs level (start + 2 ^ level))

/-- The stack R43 describes after `n` chunks, top first: one complete subtree for each set bit of n; the subtree of
bit l covers the 2^l chunks after those of the higher bits. -/
def subtreeStack (key : Cv) (mode : DomainFlags) (cvs : Nat → Cv) (n : Nat) : List Cv :=
  ((List.range 64).filter n.testBit).map fun l => subtreeCv key mode cvs l (n / 2 ^ (l + 1) * 2 ^ (l + 1))

end Sys2Proof.Machine
end

