-- ==== Sys2Proof/Certificates/Slice0/Obligations.lean ====
section
/-! DEFINITION. What is claimed of the engine: the rules of spec/ as statements about the model. -/

open Sys2Proof Sys2Proof.Machine

/-! ### Encoding -/

/-- R74, R76, R79, R84: decoding the encoding of any command gives that command back. -/
def Obligations.DecodeOfEncode : Prop := ∀ i : Instr, decodeWord (encode i) = .ok i

/-- R76, R77: a word that decodes to a command is that command's encoding, so every command has one word. -/
def Obligations.EncodeOfDecode : Prop := ∀ (w : Word) (i : Instr), decodeWord w = .ok i → encode i = w

/-- R77: the match and mask table, a word that matches no row is illegal, and an UPDATE word out of range is
rejected with ERR_RANGE. -/
def Obligations.MatchMaskTable : Prop :=
  ∀ w : Word,
    (decodeWord w = .ok .init ↔ w &&& 0xFFFFFFFF = 0x00000001) ∧
    ((∃ off len, decodeWord w = .ok (.update off len)) ↔ w &&& 0xE000000F = 0x00000002) ∧
    (decodeWord w = .ok .finalize ↔ w &&& 0xFFFFFFFF = 0x00000003) ∧
    (decodeWord w = .ok .xof ↔ w &&& 0xFFFFFFFF = 0x00000004) ∧
    (decodeWord w = .ok .compress ↔ w &&& 0xFFFFFFFF = 0x00000005) ∧
    (decodeWord w = .ok .compress4 ↔ w &&& 0xFFFFFFFF = 0x00000006) ∧
    (w &&& 0xFFFFFFFF ≠ 0x00000001 → w &&& 0xE000000F ≠ 0x00000002 → w &&& 0xFFFFFFFF ≠ 0x00000003 →
      w &&& 0xFFFFFFFF ≠ 0x00000004 → w &&& 0xFFFFFFFF ≠ 0x00000005 → w &&& 0xFFFFFFFF ≠ 0x00000006 →
      ∀ s : State, s.pending = none → busWrite 32 0x0004 w s = .next (recordError .illegalCmd s)) ∧
    (w &&& 0xE000000F = 0x00000002 → 4096 < (w.extractLsb' 4 12).toNat + (w.extractLsb' 16 13).toNat →
      ∀ s : State, s.pending = none → busWrite 32 0x0004 w s = .next (recordError .range s))

/-- A sanity statement: words written out from the encodings of R74, R77 and R84, one for each command, decode to
the commands they stand for; and the text forms of R84. -/
def Obligations.SampleWordsDecode : Prop :=
  decodeWord 0x00000001 = .ok .init ∧
  decodeWord 0x04000002 = .ok (.update 0 1024) ∧
  decodeWord 0x0040FC02 = .ok (.update 4032 64) ∧
  decodeWord 0x039C0642 = .ok (.update 100 924) ∧
  decodeWord 0x00000003 = .ok .finalize ∧
  decodeWord 0x00000004 = .ok .xof ∧
  decodeWord 0x00000005 = .ok .compress ∧
  decodeWord 0x00000006 = .ok .compress4 ∧
  assemble ['U', 'P', 'D', 'A', 'T', 'E', ' ', '4', '0', '3', '2', ',', ' ', '6', '4'] = some (.update 4032 64) ∧
  assemble ['X', 'O', 'F'] = some .xof

/-- R73, R81: what a write of any word to CMD does, check by check in the order of R81; while BUSY it is not decoded
and ERR_BUSY is recorded; acceptance sets PENDING (and so BUSY) and nothing else. -/
def Obligations.CmdWriteFollowsDecodeOrder : Prop :=
  ∀ (w : Word) (s : State),
    let op := (w.extractLsb' 0 4).toNat
    let off := (w.extractLsb' 4 12).toNat
    let len := (w.extractLsb' 16 13).toNat
    let rsv := (w.extractLsb' 29 3).toNat
    let chunkLen := s.hash.cs.blocks.val * 64 + s.hash.cs.bufLen.val
    (s.pending ≠ none → busWrite 32 0x0004 w s = .next (recordError .busy s)) ∧
    (s.pending = none →
      ∃ t, busWrite 32 0x0004 w s = .next t ∧
        (if ¬ (1 ≤ op ∧ op ≤ 6) then t = recordError .illegalCmd s
        else if rsv ≠ 0 then t = recordError .illegalCmd s
        else if op ≠ 2 ∧ (off ≠ 0 ∨ len ≠ 0) then t = recordError .illegalCmd s
        else if op = 2 ∧ off + len > 4096 then t = recordError .range s
        else if op = 4 ∧ s.seedValid = false then t = recordError .noSeed s
        else if op = 2 ∧ s.hash.cs.ctr.toNat * 1024 + chunkLen + len > 2 ^ 74 then t = recordError .overflow s
        else ∃ i : Instr, i.opcode.toNat = op ∧ i.off.toNat = off ∧ i.len.toNat = len ∧
          t = { s with pending := some i }))

/-! ### The step -/

/-- R16, R45, R149: the engine's turn runs exactly the pending command, with the entry of `inputs` that gave it the
turn taken; a well-formed command word placed by `withFetchWord` is what the very next step runs; and with nothing
pending the engine waits. -/
def Obligations.StepRunsPendingCommand : Prop :=
  (∀ (i : Instr) (s : State), s.pending = some i → s.inputs = [] → step s = exec i s) ∧
  (∀ (i : Instr) (s : State) (rest : List Input), s.pending = some i → s.inputs = .engineTurn :: rest →
    step s = exec i { s with inputs := rest }) ∧
  (∀ (w : Nat) (i : Instr) (s : State), decodeTableWord 32 w = some i → i.wellFormed = true →
    step (s.withFetchWord 32 w) = exec i { s with pending := some i }) ∧
  (∀ s : State, s.pending = none → s.inputs = [] → step s = .next s) ∧
  (∀ (s : State) (rest : List Input), s.pending = none → s.inputs = .engineTurn :: rest →
    step s = .next { s with inputs := rest })

/-- R73, R81, R149: from an idle engine, the write of an acceptable command's encoding to CMD and then the engine's
turn run that command. -/
def Obligations.AcceptedCmdWriteRunsOnTurn : Prop :=
  ∀ (i : Instr) (s : State) (rest : List Input), s.pending = none →
    s.inputs = .write 32 0x0004 (encode i) :: .engineTurn :: rest → acceptError i s = none →
    ∃ t, step s = .next t ∧ t = { s with pending := some i, inputs := .engineTurn :: rest } ∧
      step t = exec i { t with inputs := rest }

/-- R149, R151, R170, R180: whatever the host does inside the aperture, an accepted command stays pending, its operands as
they stood, for at most as many steps as there are inputs; the next step then either is the engine's turn and is exec of
that very command, or is the reset input, which abandons it; and PENDING is empty after it. -/
def Obligations.AcceptedCommandEventuallyLeavesPending : Prop :=
  ∀ (i : Instr) (s : State), s.pending = some i →
    (∀ e ∈ s.inputs, match e with
      | .write _ off _ => off < 8192
      | .read _ off => off < 8192
      | .engineTurn => True
      | .reset => True) →
    ∃ k u t, k ≤ s.inputs.length ∧ core.run k s = .next u ∧ step u = .next t ∧
      State.pending u = some i ∧ State.pending t = none ∧
      State.hash u = s.hash ∧ State.key u = s.key ∧ State.mode u = s.mode ∧ State.lanes u = s.lanes ∧
      State.seed u = s.seed ∧ State.xofCtr u = s.xofCtr ∧ (∀ a, dbufByte u a = dbufByte s a) ∧
      (((State.inputs u = [] ∨ ∃ rest, State.inputs u = .engineTurn :: rest) ∧
          exec i { u with inputs := (State.inputs u).tail } = .next t) ∨
        ∃ rest, State.inputs u = .reset :: rest ∧ t = resetEngine { u with inputs := rest })

/-- R150: DONE is set by every completion, stays 1 at a further one, and is cleared only by a STATUS write with
bit 1 = 1, or by reset. -/
def Obligations.DoneIsStickyUntilCleared : Prop :=
  (∀ (i : Instr) (s t : State), exec i s = .next t → t.done = true) ∧
  (∀ s t : State, step s = .next t → s.done = true → t.done = false →
    (∃ v rest, s.inputs = .write 32 0x0008 v :: rest ∧ v.getLsbD 1 = true) ∨ (∃ rest, s.inputs = .reset :: rest)) ∧
  (∀ (v : Word) (s : State), v.getLsbD 1 = true → ∃ t, busWrite 32 0x0008 v s = .next t ∧ t.done = false) ∧
  (∀ s : State, (resetEngine s).done = false)

/-! ### Errors and the bus -/

/-- R153: recording an error, that the first is kept, what alone clears it, and that an error does not stop the
engine: acceptance does not look at ERR, and execution neither looks at it nor changes it. -/
def Obligations.FirstErrorIsKept : Prop :=
  (∀ (e : ErrorCode) (s : State), s.err = none → recordError e s = { s with err := some e }) ∧
  (∀ (e c : ErrorCode) (s : State), s.err = some c → recordError e s = s) ∧
  (∀ (c : ErrorCode) (s t : State), step s = .next t → s.err = some c → t.err ≠ some c →
    t.err = none ∧
    ((∃ v rest, s.inputs = .write 32 0x0008 v :: rest ∧ v.getLsbD 2 = true) ∨ (∃ rest, s.inputs = .reset :: rest))) ∧
  (∀ (v : Word) (s : State), v.getLsbD 2 = true →
    ∃ t, busWrite 32 0x0008 v s = .next t ∧ t.errBit = false ∧ t.errCode = 0) ∧
  (∀ (i : Instr) (s : State) (e : Option ErrorCode),
    acceptError i { s with err := e } = acceptError i s ∧
    ∀ t, exec i s = .next t → exec i { s with err := e } = .next { t with err := e })

/-- R151: the table of bus writes while BUSY = 1, by offset. -/
def Obligations.BusyWriteTable : Prop :=
  (∀ (off : Nat) (v : Word) (s : State), s.pending ≠ none → off < 0x2000 → off % 4 = 0 →
    busWrite 32 off v s = .next
      (if off = 0x0004 ∨ 0x1000 ≤ off ∨ (0x0020 ≤ off ∧ off < 0x0040) ∨ off = 0x0010 ∨ off = 0x0040 ∨ off = 0x0044 ∨
          (0x0200 ≤ off ∧ off < 0x0400 ∧ (off - 0x0200) % 0x80 < 0x70) then recordError .busy s
      else if off = 0x0008 then
        { s with
          done := if v.getLsbD 1 then false else s.done,
          err := if v.getLsbD 2 then none else s.err }
      else if off = 0x000C then { s with irqEn := v.setWidth 2 }
      else s)) ∧
  (∀ (width off : Nat) (v : Word) (s : State), s.pending ≠ none → off < 0x2000 → (width ≠ 32 ∨ off % 4 ≠ 0) →
    busWrite width off v s = .next (recordError .bus s))

/-- R59: an access that is not 32 bits wide at a multiple of 4 is a bus error, also while BUSY = 1: a write changes no
state, a read returns 0, and ERR_BUS is recorded. -/
def Obligations.BadAccessIsBusError : Prop :=
  ∀ (width off : Nat) (v : Word) (s : State), off < 0x2000 → (width ≠ 32 ∨ off % 4 ≠ 0) →
    busWrite width off v s = .next (recordError .bus s) ∧
    busRead width off s =
      .next { recordError .bus s with replies := s.replies ++ [0] }

/-- R38: a write to a read-only register, or to the read-only fields of STATUS, is ignored and raises no error. -/
def Obligations.ReadOnlyWritesIgnored : Prop :=
  (∀ (off : Nat) (v : Word) (s : State), off % 4 = 0 →
    (off = 0x0000 ∨ (0x0048 ≤ off ∧ off < 0x0058) ∨ (0x0068 ≤ off ∧ off < 0x0070) ∨ (0x0080 ≤ off ∧ off < 0x00A0) ∨
      (0x00C0 ≤ off ∧ off < 0x0140) ∨ (0x0400 ≤ off ∧ off < 0x0500)) →
    busWrite 32 off v s = .next s) ∧
  (∀ (v : Word) (s : State), v.getLsbD 1 = false → v.getLsbD 2 = false → busWrite 32 0x0008 v s = .next s) ∧
  (∀ (v : Word) (s t : State), busWrite 32 0x0008 v s = .next t →
    t.busy = s.busy ∧ t.seedValid = s.seedValid ∧ (v.getLsbD 2 = false → t.errCode = s.errCode))

/-- R39: a reserved offset reads 0 and ignores writes, also while BUSY = 1, and raises no error; so do the reserved
fields of STATUS, IRQ_EN, MODE and L_FLAGS. -/
def Obligations.ReservedReadsZero : Prop :=
  (∀ (off : Nat) (v : Word) (s : State), off % 4 = 0 →
    ((0x0014 ≤ off ∧ off < 0x0020) ∨ (0x0058 ≤ off ∧ off < 0x0068) ∨ (0x0070 ≤ off ∧ off < 0x0080) ∨
      (0x00A0 ≤ off ∧ off < 0x00C0) ∨ (0x0140 ≤ off ∧ off < 0x0200) ∨
      (0x0200 ≤ off ∧ off < 0x0400 ∧ 0x70 ≤ (off - 0x0200) % 0x80) ∨ (0x0500 ≤ off ∧ off < 0x1000)) →
    busWrite 32 off v s = .next s ∧
    ∃ t, busRead 32 off s = .next t ∧ t.replies = s.replies ++ [0] ∧ t.err = s.err) ∧
  (∀ s : State, busValue .status s &&& 0xFFFFF0F0 = 0 ∧ busValue .irqEn s &&& 0xFFFFFFFC = 0 ∧
    busValue .mode s &&& 0xFFFFFF00 = 0 ∧ ∀ k, busValue (.laneFlags k) s &&& 0xFFFFFF00 = 0) ∧
  (∀ (v : Word) (s : State), writeRegister .status v s = writeRegister .status (v &&& 0x00000F0F) s ∧
    writeRegister .irqEn v s = writeRegister .irqEn (v &&& 0x00000003) s ∧
    writeRegister .mode v s = writeRegister .mode (v &&& 0x000000FF) s ∧
    ∀ k, writeRegister (.laneFlags k) v s = writeRegister (.laneFlags k) (v &&& 0x000000FF) s)

/-- R18, R32: the register map. Every register's offset is aligned, inside the aperture, and names that register
alone; every other aligned offset is reserved. -/
def Obligations.RegisterMapIsExact : Prop :=
  (∀ (r : Reg) (off : Nat), r.offset = some off → off % 4 = 0 ∧ off < 0x2000 ∧ Reg.ofOffset off = r) ∧
  (∀ off : Nat, off % 4 = 0 → off < 0x2000 → Reg.ofOffset off ≠ .reserved → (Reg.ofOffset off).offset = some off)

/-- R22 to R25, R32, R35, R37: on an idle engine, a write to a read-write register makes it read the written value's
implemented bits; every other register, the other half of a counter among them, reads as before; and the hash in
progress is untouched. -/
def Obligations.WriteReachesOneRegister : Prop :=
  ∀ (r : Reg) (v : Word) (s : State), s.pending = none →
    (r = .irqEn ∨ (r ≠ .cmd ∧ r.refusedWhileBusy = true)) →
    let t := writeRegister r v s
    readReg r t = v &&&
      (match r with
        | .irqEn => 0x00000003
        | .mode => 0x000000FF
        | .laneFlags _ => 0x000000FF
        | _ => 0xFFFFFFFF) ∧
    (∀ r', r' ≠ r → readReg r' t = readReg r' s) ∧
    t.hash = s.hash ∧ t.pending = none ∧ t.err = s.err ∧ t.done = s.done

/-- R55: a bus write to DBUF stores the four bytes of the word, low byte first, and no other byte of DBUF changes; a
bus read returns the same four bytes in the same order; and input bytes are placed by writing their LE32. -/
def Obligations.DbufWordIsFourBytes : Prop :=
  (∀ (j : Nat) (v : Word) (s : State), j < 1024 → s.pending = none →
    ∃ t, busWrite 32 (0x1000 + 4 * j) v s = .next t ∧
      dbufByte t (4 * j) = v.extractLsb' 0 8 ∧ dbufByte t (4 * j + 1) = v.extractLsb' 8 8 ∧
      dbufByte t (4 * j + 2) = v.extractLsb' 16 8 ∧ dbufByte t (4 * j + 3) = v.extractLsb' 24 8 ∧
      (∀ a, (a < 4 * j ∨ 4 * j + 4 ≤ a) → dbufByte t a = dbufByte s a) ∧
      ∃ u, busRead 32 (0x1000 + 4 * j) t = .next u ∧ u.replies = s.replies ++ [v]) ∧
  (∀ (j : Nat) (s : State), j < 1024 → ∃ u, busRead 32 (0x1000 + 4 * j) s = .next u ∧
    u.replies = s.replies ++ [le32 (dbufByte s (4 * j)) (dbufByte s (4 * j + 1)) (dbufByte s (4 * j + 2))
      (dbufByte s (4 * j + 3))]) ∧
  (∀ (j : Nat) (b0 b1 b2 b3 : Byte) (s : State), j < 1024 → s.pending = none →
    ∃ t, busWrite 32 (0x1000 + 4 * j) (le32 b0 b1 b2 b3) s = .next t ∧ memRead t (4 * j) 4 = [b0, b1, b2, b3])

/-- R21: the fields of STATUS, and its write-one-to-clear bits, which act while BUSY = 1 too. -/
def Obligations.StatusFieldsAndW1c : Prop :=
  (∀ s : State,
    (readReg .status s).getLsbD 0 = s.pending.isSome ∧
    (readReg .status s).getLsbD 1 = s.done ∧
    (readReg .status s).getLsbD 2 = s.err.isSome ∧
    (readReg .status s).getLsbD 3 = s.seedValid ∧
    (readReg .status s).extractLsb' 4 4 = 0 ∧
    (readReg .status s).extractLsb' 8 4 = (match s.err with
      | none => 0
      | some .illegalCmd => 1
      | some .range => 2
      | some .noSeed => 3
      | some .overflow => 4
      | some .busy => 5
      | some .bus => 6) ∧
    (readReg .status s).extractLsb' 12 20 = 0) ∧
  (∀ (v : Word) (s : State), busWrite 32 0x0008 v s = .next
    { s with
      done := if v.getLsbD 1 then false else s.done,
      err := if v.getLsbD 2 then none else s.err }) ∧
  readReg .status State.reset = 0

/-- R19: ID always reads 0x424C4B33, its bytes in memory order 0x33, 0x4B, 0x4C, 0x42, and no command changes it. -/
def Obligations.IdReadsConstant : Prop :=
  (∀ s : State, ∃ t, busRead 32 0x0000 s = .next t ∧ t.replies = s.replies ++ [0x424C4B33]) ∧
  wordBytes 0x424C4B33 = [0x33, 0x4B, 0x4C, 0x42] ∧
  (∀ (i : Instr) (s t : State), exec i s = .next t → readReg .id t = 0x424C4B33)

/-- R63: no read has a side effect on the engine; two reads of an idle engine return the same value. -/
def Obligations.ReadsHaveNoSideEffect : Prop :=
  (∀ (off : Nat) (s t : State), off % 4 = 0 → busRead 32 off s = .next t →
    t = { s with replies := t.replies, draws := t.draws }) ∧
  (∀ (off : Nat) (s : State), off % 4 = 0 → off < 0x2000 → s.pending = none →
    ∃ v t u, busRead 32 off s = .next t ∧ t = { s with replies := s.replies ++ [v] } ∧
      busRead 32 off t = .next u ∧ u = { s with replies := s.replies ++ [v, v] })

/-- R46, U2: while BUSY = 1 a read of an engine-written register returns a free value, STATUS its true bits but
SEED_VALID, every other register its true value; while BUSY = 0 every register reads its true value. The statement
holds for every value of the draws. -/
def Obligations.BusyReadsAreFreeValues : Prop :=
  (∀ (off : Nat) (s : State), s.pending ≠ none → off % 4 = 0 →
    ((0x0040 ≤ off ∧ off < 0x0058) ∨ (0x0068 ≤ off ∧ off < 0x0070) ∨ (0x0080 ≤ off ∧ off < 0x00A0) ∨
      (0x00C0 ≤ off ∧ off < 0x0140) ∨ (0x0400 ≤ off ∧ off < 0x0500)) →
    busRead 32 off s = .next
      { s with replies := s.replies ++ [Config.busyRead s.draws], draws := s.draws + 1 }) ∧
  (∀ s : State, s.pending ≠ none →
    ∃ v, busRead 32 0x0008 s = .next { s with replies := s.replies ++ [v], draws := s.draws + 1 } ∧
      v &&& 0xFFFFFFF7 = readReg .status s &&& 0xFFFFFFF7) ∧
  (∀ (r : Reg) (off : Nat) (s : State), r.offset = some off →
    (r = .id ∨ r = .cmd ∨ r = .irqEn ∨ r = .mode ∨ 0x1000 ≤ off ∨ (0x0020 ≤ off ∧ off < 0x0040) ∨
      (0x0200 ≤ off ∧ off < 0x0400)) →
    ∃ t, busRead 32 off s = .next t ∧ t.replies = s.replies ++ [readReg r s]) ∧
  (∀ (r : Reg) (off : Nat) (s : State), r.offset = some off → s.pending = none →
    busRead 32 off s = .next { s with replies := s.replies ++ [readReg r s] })

/-- R157: the interrupt level, every way it rises, every way it falls, and that it is 0 after reset. -/
def Obligations.IrqLevelFollowsStatus : Prop :=
  (∀ s : State, s.irq = true ↔
    ((s.done = true ∧ s.irqEn.getLsbD 0 = true) ∨ (s.err ≠ none ∧ s.irqEn.getLsbD 1 = true))) ∧
  (∀ s t : State, step s = .next t → s.irq = false → t.irq = true →
    (s.done = false ∧ t.done = true ∧ t.irqEn.getLsbD 0 = true) ∨
    (s.err = none ∧ t.err ≠ none ∧ t.irqEn.getLsbD 1 = true) ∨
    (∃ v rest, s.inputs = .write 32 0x000C v :: rest ∧
      ((s.done = true ∧ v.getLsbD 0 = true) ∨ (s.err ≠ none ∧ v.getLsbD 1 = true)))) ∧
  (∀ s t : State, step s = .next t → s.irq = true → t.irq = false →
    (∃ v rest, s.inputs = .write 32 0x0008 v :: rest ∧ (v.getLsbD 1 = true ∨ v.getLsbD 2 = true)) ∨
    (∃ v rest, s.inputs = .write 32 0x000C v :: rest) ∨ (∃ rest, s.inputs = .reset :: rest)) ∧
  (∀ s : State, (resetEngine s).irq = false)

/-- R50, U6 (log 7): an access outside the 8192 bytes of the aperture is refused. -/
def Obligations.OutsideApertureIsRefused : Prop :=
  (∀ (width off : Nat) (v : Word) (s : State), 8192 ≤ off →
    busWrite width off v s = .refused .outsideAperture ∧ busRead width off s = .refused .outsideAperture) ∧
  (∀ base addr : Nat, offsetOf base addr = none ↔ (addr < base ∨ base + 8192 ≤ addr)) ∧
  (∀ base off : Nat, off < 8192 → offsetOf base (base + off) = some off)

/-! ### Reset -/

/-- R169, R170: the state right after reset, and from any state, with a command pending, run or abandoned, the reset
input gives the table of R169. -/
def Obligations.ResetRestoresTable : Prop :=
  AtReset State.reset ∧
  (∀ (s : State) (rest : List Input), s.inputs = .reset :: rest → ∃ t, step s = .next t ∧ AtReset t) ∧
  (∀ (i : Instr) (s u : State), exec i s = .next u →
    step { s with inputs := [.reset] } = step { u with inputs := [.reset] })

/-- R172: after reset the hash state equals the result of INIT with KEY = IV and MODE = 0; FINALIZE right after reset
gives the seed of the empty input; XOF right after reset is rejected with ERR_NO_SEED. -/
def Obligations.ResetEqualsPlainInit : Prop :=
  (∀ s : State, s.key = iv → s.mode = 0 →
    ∃ t, exec .init s = .next t ∧ t.hash = State.reset.hash ∧ t.done = true ∧ t.seedValid = State.reset.seedValid ∧
      t.xofCtr = State.reset.xofCtr) ∧
  State.reset.key = iv ∧ State.reset.mode = 0 ∧ State.reset.done = false ∧
  (∃ t u, busWrite 32 0x0004 0x00000003 State.reset = .next t ∧ step t = .next u ∧
    u.seed = { cv := iv, m := Vector.replicate 16 0, blockLen := 0, flags := 0x03 } ∧ u.seedValid = true) ∧
  busWrite 32 0x0004 0x00000004 State.reset = .next { State.reset with err := some .noSeed }

/-! ### The compression function -/

/-- R88, R90, R94, R95: the initial state, the order of a round's G-calls, seven rounds in the order 0 to 6, and the
output words. -/
def Obligations.CompressionStructure : Prop :=
  (∀ (o : Operands) (i : Fin 8), (initialState o)[i.val] = o.cv[i]) ∧
  (∀ (o : Operands) (i : Fin 4), (initialState o)[8 + i.val] = iv[i.val]) ∧
  (∀ o : Operands,
    (initialState o)[12] = o.counter.extractLsb' 0 32 ∧ (initialState o)[13] = o.counter.extractLsb' 32 32 ∧
    (initialState o)[14] = o.blockLen ∧ (initialState o)[15] = o.flags.setWidth 32) ∧
  (∀ (m : Block) (s : Vector (Fin 16) 16) (v : Block),
    mixRound m s v =
      mixG (mixG (mixG (mixG (mixG (mixG (mixG (mixG v
        0 4 8 12 m[s[0]] m[s[1]]) 1 5 9 13 m[s[2]] m[s[3]]) 2 6 10 14 m[s[4]] m[s[5]]) 3 7 11 15 m[s[6]] m[s[7]])
        0 5 10 15 m[s[8]] m[s[9]]) 1 6 11 12 m[s[10]] m[s[11]]) 2 7 8 13 m[s[12]] m[s[13]])
        3 4 9 14 m[s[14]] m[s[15]]) ∧
  (∀ o : Operands, workingState o 0 = initialState o) ∧
  (∀ (o : Operands) (r : Fin 7), workingState o (r.val + 1) = mixRound o.m schedule[r] (workingState o r.val)) ∧
  (∀ (o : Operands) (i : Fin 8),
    (compress o)[i.val] = (workingState o 7)[i.val] ^^^ (workingState o 7)[i.val + 8] ∧
    (compress o)[i.val + 8] = (workingState o 7)[i.val + 8] ^^^ o.cv[i])

/-- R89: the eight steps of G on four different state words, and no other word changes. -/
def Obligations.MixStepWords : Prop :=
  ∀ (v : Block) (a b c d : Fin 16) (mx my : Word), a ≠ b → a ≠ c → a ≠ d → b ≠ c → b ≠ d → c ≠ d →
    let a1 := v[a] + v[b] + mx
    let d1 := rotr32 (v[d] ^^^ a1) 16
    let c1 := v[c] + d1
    let b1 := rotr32 (v[b] ^^^ c1) 12
    let a2 := a1 + b1 + my
    let d2 := rotr32 (d1 ^^^ a2) 8
    let c2 := c1 + d2
    let b2 := rotr32 (b1 ^^^ c2) 7
    (mixG v a b c d mx my)[a] = a2 ∧ (mixG v a b c d mx my)[b] = b2 ∧ (mixG v a b c d mx my)[c] = c2 ∧
    (mixG v a b c d mx my)[d] = d2 ∧
    ∀ i : Fin 16, i ≠ a → i ≠ b → i ≠ c → i ≠ d → (mixG v a b c d mx my)[i] = v[i]

/-- R91: the order of the calls inside the columns, and inside the diagonals, does not matter. -/
def Obligations.CallsWithinGroupCommute : Prop :=
  ∀ (m : Block) (s : Vector (Fin 16) 16) (v : Block) (l : List (Fin 4)), l.Perm [0, 1, 2, 3] →
    l.foldl (fun v j => gCall m s (Fin.ofNat 8 j.val) (Fin.ofNat 16 j.val) (Fin.ofNat 16 (4 + j.val))
      (Fin.ofNat 16 (8 + j.val)) (Fin.ofNat 16 (12 + j.val)) v) v = columns m s v ∧
    l.foldl (fun v j => gCall m s (Fin.ofNat 8 (4 + j.val)) (Fin.ofNat 16 j.val)
      (Fin.ofNat 16 (4 + (j.val + 1) % 4)) (Fin.ofNat 16 (8 + (j.val + 2) % 4))
      (Fin.ofNat 16 (12 + (j.val + 3) % 4)) v) v = diagonals m s v

/-- R93: each row of the schedule is the previous row composed with SIGMA, and permuting the message between rounds
gives the same function. -/
def Obligations.PermutedScheduleIsEquivalent : Prop :=
  (∀ i : Fin 16, schedule[0][i] = i) ∧
  (∀ (r : Fin 6) (i : Fin 16), schedule[r.val + 1][i] = schedule[r.val][sigma[i]]) ∧
  (∀ o : Operands, compressPermuted o = compress o)

/-- R8, R99: the rotations by 16 and 8 by byte shuffle equal the rotations by shift, and rotr32 rotates right. -/
def Obligations.RotationsAgree : Prop :=
  ∀ x : Word, rotr16Shuffled x = rotr32 x 16 ∧ rotr8Shuffled x = rotr32 x 8 ∧
    ∀ n : Nat, 0 < n → n < 32 → rotr32 x n = x.rotateRight n

/-- R103, R107: the transposed four-lane datapath gives, in every lane, exactly the scalar compression of that lane's
tuple. -/
def Obligations.TransposedLanesEqualScalar : Prop :=
  ∀ (o : Vector Operands 4) (k : Fin 4), (compress4Transposed o)[k] = compress o[k]

/-- R106: COMPRESS4 leaves in RES[k][0..7] what COMPRESS leaves in RES[0][0..7] on a bank 0 loaded with lane k's
tuple; R104: a lane's result does not depend on another lane's bank. -/
def Obligations.LaneEqualsCompressOfItsTuple : Prop :=
  (∀ (s t u : State) (k : Fin 4), exec .compress4 s = .next t →
    exec .compress { s with lanes := s.lanes.set 0 s.lanes[k] } = .next u →
    ∀ i : Fin 16, i.val < 8 → readReg (.res k i) t = readReg (.res 0 i) u) ∧
  (∀ (s t u : State) (k k' : Fin 4) (b : LaneBank), k ≠ k' → exec .compress4 s = .next t →
    exec .compress4 { s with lanes := s.lanes.set k' b } = .next u →
    ∀ i, readReg (.res k i) u = readReg (.res k i) t)

/-- R9, R54, R56: words16 and bytes undo each other, the missing bytes of a short block zero. -/
def Obligations.BlockBytesRoundTrip : Prop :=
  (∀ bs : List Byte, bs.length ≤ 64 → bytesOf (words16 bs).toList = bs ++ List.replicate (64 - bs.length) 0) ∧
  (∀ w : Block, words16 (bytesOf w.toList) = w) ∧
  (∀ (w : Block) (i : Fin 16) (b : Fin 4),
    (bytesOf w.toList)[4 * i.val + b.val]? = some (w[i].extractLsb' (8 * b.val) 8))

/-! ### The commands -/

/-- R101: COMPRESS. Its encoding, its errors, its effect and what it leaves unchanged, its corner cases and its
worked example. -/
def Obligations.CompressResult : Prop :=
  encode .compress = 0x00000005 ∧
  (∀ (w : Word) (u : State), opField w = 5 → busWrite 32 0x0004 w u = .next
    (if u.busy then recordError .busy u
    else if w = 0x00000005 then { u with pending := some .compress }
    else recordError .illegalCmd u)) ∧
  (∀ s : State, ∃ t, exec .compress s = .next t ∧
    (∀ i : Fin 16, readReg (.res 0 i) t =
      (compress { cv := s.lanes[0].cv, m := s.lanes[0].m, counter := s.lanes[0].ctrHi ++ s.lanes[0].ctrLo,
                  blockLen := s.lanes[0].blockLen, flags := s.lanes[0].flags })[i]) ∧
    t.pending = none ∧ t.done = true ∧ t.seedValid = s.seedValid ∧ t.err = s.err ∧ t.hash = s.hash ∧
    OtherRegsKept (fun r => ∃ i, r = .res 0 i) s t) ∧
  (∀ o : Operands, (initialState o)[14] = o.blockLen ∧
    (o.flags = 0xFF → (initialState o)[15] = 0x000000FF) ∧
    (o.counter = 0xFFFFFFFFFFFFFFFF → (initialState o)[12] = 0xFFFFFFFF ∧ (initialState o)[13] = 0xFFFFFFFF)) ∧
  first8 (compress { cv := iv, m := Vector.replicate 16 0, counter := 0, blockLen := 0, flags := 0x0B }) =
    #v[0xB94913AF, 0xA6A1F9F5, 0xEA4D40A0, 0x49C9DC36, 0xC925CB9B, 0xB712C1AD, 0xCA939ACC, 0x62321FE4]

/-- R105: COMPRESS4. Its encoding, its errors, its effect and what it leaves unchanged, and its corner cases. -/
def Obligations.Compress4Result : Prop :=
  encode .compress4 = 0x00000006 ∧
  (∀ (w : Word) (u : State), opField w = 6 → busWrite 32 0x0004 w u = .next
    (if u.busy then recordError .busy u
    else if w = 0x00000006 then { u with pending := some .compress4 }
    else recordError .illegalCmd u)) ∧
  (∀ s : State, ∃ t, exec .compress4 s = .next t ∧
    (∀ (k : Fin 4) (i : Fin 16), i.val < 8 → readReg (.res k i) t =
      (compress { cv := s.lanes[k].cv, m := s.lanes[k].m, counter := s.lanes[k].ctrHi ++ s.lanes[k].ctrLo,
                  blockLen := s.lanes[k].blockLen, flags := s.lanes[k].flags })[i]) ∧
    t.pending = none ∧ t.done = true ∧ t.seedValid = s.seedValid ∧ t.err = s.err ∧ t.hash = s.hash ∧
    OtherRegsKept (fun r => ∃ k i, r = .res k i ∧ i.val < 8) s t ∧
    (∀ (k k' : Fin 4) (i : Fin 16), i.val < 8 → s.lanes[k] = s.lanes[k'] →
      readReg (.res k i) t = readReg (.res k' i) t) ∧
    (∃ u, exec .compress t = .next u ∧
      (∀ i : Fin 16, readReg (.res 0 i) u = (compress (LaneBank.operands s.lanes[0]))[i]) ∧
      (∀ (k : Fin 4) (i : Fin 16), k ≠ 0 → readReg (.res k i) u = readReg (.res k i) t) ∧
      ∀ i : Fin 16, i.val < 8 → readReg (.res 0 i) u = readReg (.res 0 i) t)) ∧
  (∃ t, exec .compress4 { State.reset with lanes := #v[
        { cv := iv, m := Vector.replicate 16 0, ctrLo := 0, ctrHi := 0, blockLen := 0, flags := 0x0B },
        { cv := iv, m := Vector.replicate 16 0, ctrLo := 0, ctrHi := 0, blockLen := 1, flags := 0x0B },
        { cv := iv, m := #v[0, 1, 2, 3, 4, 5, 6, 7, 8, 9, 10, 11, 12, 13, 14, 15], ctrLo := 0, ctrHi := 0,
          blockLen := 64, flags := 0x00 },
        { cv := iv, m := Vector.replicate 16 0, ctrLo := 0, ctrHi := 1, blockLen := 64, flags := 0xFF }] } = .next t ∧
    first8 t.res[0] = #v[0xB94913AF, 0xA6A1F9F5, 0xEA4D40A0, 0x49C9DC36, 0xC925CB9B, 0xB712C1AD, 0xCA939ACC, 0x62321FE4] ∧
    first8 t.res[1] = #v[0xDFDE3A2D, 0xF1611BF1, 0x356E884C, 0x7336A0AF, 0xA787CD6D, 0xC1B5274D, 0xD0250251, 0x13E292F5] ∧
    first8 t.res[2] = #v[0x5F98B37E, 0x26B0AF2A, 0xDC58B278, 0x85D56FF6, 0x96F5D384, 0x42C9E776, 0xBEEDD1E4, 0xA03FAF22] ∧
    first8 t.res[3] = #v[0xB96DDC22, 0xA7929D2E, 0xDAA5CE94, 0xA6691C94, 0xFB7A8752, 0xFCC58907, 0x8586BC2A, 0xCF38E892])

/-- R137: XOF. Its encoding, its errors, its effect and what it leaves unchanged, the wrap of XOF_CTR, a repeat with
XOF_CTR written back, an UPDATE before it, and its worked example. -/
def Obligations.XofResult : Prop :=
  encode .xof = 0x00000004 ∧
  (∀ (w : Word) (u : State), opField w = 4 → busWrite 32 0x0004 w u = .next
    (if u.busy then recordError .busy u
    else if w ≠ 0x00000004 then recordError .illegalCmd u
    else if u.seedValid = false then recordError .noSeed u
    else { u with pending := some .xof })) ∧
  (∀ s : State, ∃ t, exec .xof s = .next t ∧
    (∀ i : Fin 16, readReg (.xout i) t =
      (compress { cv := s.seed.cv, m := s.seed.m, counter := s.xofCtr, blockLen := s.seed.blockLen,
                  flags := s.seed.flags ||| 0x08 })[i]) ∧
    t.xofCtr.toNat = (s.xofCtr.toNat + 1) % 2 ^ 64 ∧
    t.pending = none ∧ t.done = true ∧ t.seedValid = s.seedValid ∧ t.err = s.err ∧ t.hash = s.hash ∧
    OtherRegsKept (fun r => (∃ i, r = .xout i) ∨ r = .xofCtrLo ∨ r = .xofCtrHi) s t ∧
    (s.xofCtr = 0xFFFFFFFFFFFFFFFF → t.xofCtr = 0) ∧
    (∃ u, exec .xof { t with xofCtr := s.xofCtr } = .next u ∧ u.xout = t.xout) ∧
    (∀ off len u v, exec (.update off len) s = .next u → exec .xof u = .next v → v.xout = t.xout)) ∧
  (∃ t u, exec .finalize State.reset = .next t ∧ exec .xof t = .next u ∧ u.xofCtr = 1 ∧ first8 u.xout =
    #v[0xB94913AF, 0xA6A1F9F5, 0xEA4D40A0, 0x49C9DC36, 0xC925CB9B, 0xB712C1AD, 0xCA939ACC, 0x62321FE4])

/-- R131: FINALIZE. Its encoding, its errors, the fold over the stack from the top down, what it writes and leaves
unchanged, the empty stack, one stack entry, and its worked example. -/
def Obligations.FinalizeResult : Prop :=
  encode .finalize = 0x00000003 ∧
  (∀ (w : Word) (u : State), opField w = 3 → busWrite 32 0x0004 w u = .next
    (if u.busy then recordError .busy u
    else if w = 0x00000003 then { u with pending := some .finalize }
    else recordError .illegalCmd u)) ∧
  (∀ s : State, ∃ t, exec .finalize s = .next t ∧
    (let o := s.hash.stack.foldl
        (fun (o : Operands) (left : Cv) =>
          ({ cv := s.hash.hKey, m := concat8 left (first8 (compress o)), counter := 0, blockLen := 64,
             flags := s.hash.hMode ||| 0x04 } : Operands))
        { cv := s.hash.cs.cv, m := words16 (s.hash.cs.buf.toList.take s.hash.cs.bufLen.val),
          counter := s.hash.cs.ctr, blockLen := BitVec.ofNat 32 s.hash.cs.bufLen.val,
          flags := s.hash.hMode ||| 0x02 ||| (if s.hash.cs.blocks = 0 then 0x01 else 0) };
      (∀ i, readReg (.seedCv i) t = o.cv[i]) ∧ (∀ i, readReg (.seedM i) t = o.m[i]) ∧
      readReg .seedBlen t = o.blockLen ∧ readReg .seedFlags t = o.flags.setWidth 32) ∧
    t.seedValid = true ∧ t.xofCtr = 0 ∧ t.pending = none ∧ t.done = true ∧ t.err = s.err ∧ t.hash = s.hash ∧
    OtherRegsKept (fun r => (∃ i, r = .seedCv i) ∨ (∃ i, r = .seedM i) ∨ r = .seedBlen ∨ r = .seedFlags ∨
      r = .xofCtrLo ∨ r = .xofCtrHi) s t ∧
    (s.hash.stack = [] → t.seed = seedOf (chunkOutput s.hash.hMode s.hash.cs)) ∧
    (∀ left, s.hash.stack = [left] →
      t.seed = seedOf (parentOutput s.hash.hKey s.hash.hMode left (chunkCv s.hash.hMode s.hash.cs)))) ∧
  (∃ t, exec .finalize State.reset = .next t ∧
    t.seed = { cv := iv, m := Vector.replicate 16 0, blockLen := 0, flags := 0x03 } ∧ t.seedValid = true ∧
    t.xofCtr = 0)

/-- R116: INIT. Its encoding, its errors, its effect and what it leaves unchanged, that KEY = IV and MODE = 0 give the
hash state of reset, and its worked example. -/
def Obligations.InitResult : Prop :=
  encode .init = 0x00000001 ∧
  (∀ (w : Word) (u : State), opField w = 1 → busWrite 32 0x0004 w u = .next
    (if u.busy then recordError .busy u
    else if w = 0x00000001 then { u with pending := some .init }
    else recordError .illegalCmd u)) ∧
  (∀ s : State, ∃ t, exec .init s = .next t ∧
    t.hash = { hKey := s.key, hMode := s.mode,
               cs := { cv := s.key, ctr := 0, buf := Vector.replicate 64 0, bufLen := 0, blocks := 0 },
               stack := [] } ∧
    readReg .chunkCtrLo t = 0 ∧ readReg .chunkCtrHi t = 0 ∧ readReg .chunkLen t = 0 ∧ readReg .stackDepth t = 0 ∧
    t.seedValid = false ∧ t.xofCtr = 0 ∧ t.pending = none ∧ t.done = true ∧ t.err = s.err ∧ t.seed = s.seed ∧
    OtherRegsKept (fun r => r = .xofCtrLo ∨ r = .xofCtrHi ∨ r = .chunkCtrLo ∨ r = .chunkCtrHi ∨ r = .chunkLen ∨
      r = .stackDepth) s t ∧
    (s.key = iv → s.mode = 0 → t.hash = State.reset.hash)) ∧
  (∃ t, exec .init { State.reset with
      key := #v[0x74616877, 0x68742073, 0x6C452065, 0x68736976, 0x726F7720, 0x6F662064, 0x72662072, 0x646E6569],
      mode := 0x10 } = .next t ∧
    t.hash.hKey[0] = 0x74616877 ∧ t.hash.hMode = 0x10 ∧ readReg .chunkLen t = 0 ∧ readReg .stackDepth t = 0)

/-- R117: UPDATE. Its encoding, its errors, the byte loop with its two lazy boundaries, what it leaves unchanged,
LEN = 0, that one command opens at most four new chunks, and its worked example. -/
def Obligations.UpdateResult : Prop :=
  (∀ (off : BitVec 12) (len : BitVec 13),
    encode (.update off len) = 0x00000002 ||| (off.setWidth 32 <<< 4) ||| (len.setWidth 32 <<< 16)) ∧
  (∀ (w : Word) (u : State), opField w = 2 → busWrite 32 0x0004 w u = .next
    (if u.busy then recordError .busy u
    else if rsvField w ≠ 0 then recordError .illegalCmd u
    else if 4096 < (offField w).toNat + (lenField w).toNat then recordError .range u
    else if 2 ^ 74 < u.hash.cs.ctr.toNat * 1024 + (u.hash.cs.blocks.val * 64 + u.hash.cs.bufLen.val) +
        (lenField w).toNat then recordError .overflow u
    else { u with pending := some (.update (offField w) (lenField w)) })) ∧
  (∀ (off : BitVec 12) (len : BitVec 13) (s : State), ∃ t, exec (.update off len) s = .next t ∧
    t.hash = (memRead s off.toNat len.toNat).foldl
      (fun (h : HashState) (x : Byte) =>
        let h1 : HashState :=
          if h.cs.blocks.val * 64 + h.cs.bufLen.val = 1024 then
            { hKey := h.hKey, hMode := h.hMode,
              cs := { cv := h.hKey, ctr := h.cs.ctr + 1, buf := Vector.replicate 64 0, bufLen := 0, blocks := 0 },
              stack := accPush h.hKey h.hMode h.stack (first8 (compress (chunkOutput h.hMode h.cs))) (h.cs.ctr + 1) }
          else h
        let h2 : HashState :=
          if h1.cs.bufLen.val = 64 then
            { h1 with
              cs := { cv := first8 (compress
                        { cv := h1.cs.cv, m := words16 h1.cs.buf.toList, counter := h1.cs.ctr, blockLen := 64,
                          flags := h1.hMode ||| (if h1.cs.blocks = 0 then 0x01 else 0) }),
                      ctr := h1.cs.ctr, buf := Vector.replicate 64 0, bufLen := 0, blocks := h1.cs.blocks + 1 } }
          else h1
        { h2 with
          cs := { h2.cs with buf := h2.cs.buf.setIfInBounds h2.cs.bufLen.val x, bufLen := h2.cs.bufLen + 1 } })
      s.hash ∧
    t.hash.hKey = s.hash.hKey ∧ t.hash.hMode = s.hash.hMode ∧
    t.pending = none ∧ t.done = true ∧ t.seedValid = s.seedValid ∧ t.seed = s.seed ∧ t.err = s.err ∧
    OtherRegsKept (fun r => r = .chunkCtrLo ∨ r = .chunkCtrHi ∨ r = .chunkLen ∨ r = .stackDepth) s t ∧
    (len = 0 → t = { s with pending := none, done := true }) ∧
    (off.toNat + len.toNat ≤ 4096 → ∃ n ≤ 4, t.hash.cs.ctr = s.hash.cs.ctr + BitVec.ofNat 64 n)) ∧
  (∃ t u w, exec (.update 0 1) { State.reset with dbuf := [(0, 0)] } = .next t ∧ readReg .chunkLen t = 1 ∧
    t.hash.cs.bufLen = 1 ∧ readReg .stackDepth t = 0 ∧
    exec .finalize t = .next u ∧ exec .xof u = .next w ∧ readReg (.xout 0) w = 0xDFDE3A2D)

/-! ### The hash -/

/-- R122: the effect of UPDATE depends only on the sequence of bytes consumed: slices absorbed one after another leave
what their concatenation leaves, and n UPDATE commands, with DBUF written anew or anything else done between them that
leaves the hash state, leave what one UPDATE of the concatenation of their slices leaves. -/
def Obligations.UpdateSplittingInvariance : Prop :=
  (∀ (h : HashState) (slices : List (List Byte)), slices.foldl absorb h = absorb h slices.flatten) ∧
  (∀ (n : Nat) (offs : Nat → BitVec 12) (lens : Nat → BitVec 13) (before after : Nat → State) (off : BitVec 12)
      (len : BitVec 13) (one u : State),
    0 < n → (∀ k, k < n → exec (.update (offs k) (lens k)) (before k) = .next (after k)) →
    (∀ k, k + 1 < n → (before (k + 1)).hash = (after k).hash) →
    one.hash = (before 0).hash →
    memRead one off.toNat len.toNat =
      ((List.range n).flatMap fun k => memRead (before k) (offs k).toNat (lens k).toNat) →
    exec (.update off len) one = .next u → u.hash = (after (n - 1)).hash)

/-- R43, R110 to R120, R127, R128, table 2.4 of 95_test_vectors.md: where the engine stands after any input within the
limit of R121, the lazy boundaries of R118 and R119 included. -/
def Obligations.InputPositionAfterBytes : Prop :=
  ∀ (key : Cv) (mode : DomainFlags) (xs : List Byte), xs.length ≤ 2 ^ 74 →
    let h := absorb (initialHash key mode) xs
    (xs = [] → h.cs.ctr.toNat = 0 ∧ h.cs.blocks.val = 0 ∧ h.cs.bufLen.val = 0) ∧
    (xs ≠ [] → h.cs.ctr.toNat = (xs.length - 1) / 1024 ∧ h.cs.blocks.val = (xs.length - 1) % 1024 / 64 ∧
      h.cs.bufLen.val = (xs.length - 1) % 64 + 1) ∧
    h.cs.totalBytes = xs.length ∧ h.stack.length = popcount h.cs.ctr

/-- R128: a push with total = N performs exactly tz(N) merges, at most 63, and leaves popcount(N) entries. -/
def Obligations.PushMergesTrailingZeros : Prop :=
  ∀ (key : Cv) (mode : DomainFlags) (st : List Cv) (cv : Cv) (n : Counter), n ≠ 0 → st.length = popcount (n - 1) →
    tz n ≤ st.length ∧ tz n ≤ 63 ∧
    accPush key mode st cv n =
      (st.take (tz n)).foldl (fun cur left => parentCv key mode left cur) cv :: st.drop (tz n) ∧
    (accPush key mode st cv n).length = popcount n

/-- R43: after any input, the stack holds, from bottom to top, the roots of the complete subtrees over the input's
chunks whose sizes are the set bits of CS.ctr from the most to the least significant. -/
def Obligations.StackHoldsCompleteSubtrees : Prop :=
  ∀ (key : Cv) (mode : DomainFlags) (xs : List Byte), xs.length ≤ 2 ^ 74 →
    let h := absorb (initialHash key mode) xs
    h.stack = subtreeStack key mode (chunkCvOf key mode xs) h.cs.ctr.toNat

/-- The invariant of `State.Inv` holds right after reset. -/
def Obligations.InvHoldsAtReset : Prop := State.reset.Inv

/-- R41, R43, R45: every step, of the engine, the host or the reset input, keeps the invariant. -/
def Obligations.StepKeepsInv : Prop := ∀ s t : State, s.Inv → step s = .next t → t.Inv

/-- R26, R27, R28, R44: what the three observability registers read, and that the stack never holds more than 64. -/
def Obligations.ObservabilityRegisters : Prop :=
  (∀ s : State, (readReg .chunkCtrHi s).toNat * 2 ^ 32 + (readReg .chunkCtrLo s).toNat = s.hash.cs.ctr.toNat) ∧
  (∀ s : State, (readReg .chunkLen s).toNat = s.hash.cs.blocks.val * 64 + s.hash.cs.bufLen.val ∧
    (readReg .chunkLen s).toNat ≤ 1024) ∧
  (∀ s : State, s.Inv → (readReg .stackDepth s).toNat = s.hash.stack.length ∧ s.hash.stack.length ≤ 64)

/-- R134: under the invariant of R43 the seed's counter is 0, whatever the depth of the stack. -/
def Obligations.SeedCounterIsZero : Prop := ∀ h : HashState, h.Inv → (rootSeed h).counter = 0

/-- R135: FINALIZE is a pure read of the hash state: further UPDATEs continue the same hash, and a second FINALIZE
with no UPDATE or INIT between writes the same seed. -/
def Obligations.FinalizeIsPure : Prop :=
  ∀ s t : State, exec .finalize s = .next t →
    t.hash = s.hash ∧
    (∀ off len u v, exec (.update off len) s = .next u → exec (.update off len) t = .next v → v.hash = u.hash) ∧
    (∀ u, exec .finalize t = .next u → u.seed = t.seed) ∧
    (∀ i u v, (i = .xof ∨ i = .compress ∨ i = .compress4) → exec i t = .next u → exec .finalize u = .next v →
      v.seed = t.seed)

/-- R136: UPDATE changes neither the SEED registers nor SEED_VALID, and XOF after it gives the block it would have
given before it. -/
def Obligations.SeedSurvivesUpdate : Prop :=
  ∀ (off : BitVec 12) (len : BitVec 13) (s t u v : State), exec (.update off len) s = .next t →
    t.seed = s.seed ∧ t.seedValid = s.seedValid ∧
    (exec .xof s = .next u → exec .xof t = .next v → v.xout = u.xout ∧ v.xofCtr = u.xofCtr)

/-- R36, R37, R177: H_KEY and H_MODE change only when INIT runs, which copies KEY and MODE, or at reset; no bus write
touches them. -/
def Obligations.HashKeyBindsAtInit : Prop :=
  ∀ s t : State, step s = .next t → (t.hash.hKey ≠ s.hash.hKey ∨ t.hash.hMode ≠ s.hash.hMode) →
    (s.pending = some .init ∧ t.hash.hKey = s.key ∧ t.hash.hMode = s.mode) ∨
    ((∃ rest, s.inputs = .reset :: rest) ∧ t.hash.hKey = iv ∧ t.hash.hMode = 0)

/-- R31, R32, R34, R35, R42, R49: which event may change which state. Every clause leaves reset aside. -/
def Obligations.OnlyItsCommandWrites : Prop :=
  ∀ s t : State, step s = .next t → (∀ rest, s.inputs ≠ .reset :: rest) →
    (t.xout ≠ s.xout → s.pending = some .xof ∧ t.pending = none) ∧
    (t.res ≠ s.res → (s.pending = some .compress ∨ s.pending = some .compress4) ∧ t.pending = none) ∧
    (t.seed ≠ s.seed → s.pending = some .finalize ∧ t.pending = none) ∧
    (t.seedValid ≠ s.seedValid → (s.pending = some .finalize ∨ s.pending = some .init) ∧ t.pending = none) ∧
    (t.hash ≠ s.hash → (s.pending = some .init ∨ ∃ off len, s.pending = some (.update off len)) ∧ t.pending = none) ∧
    (t.lanes ≠ s.lanes → s.pending = none ∧
      ∃ off v rest, s.inputs = .write 32 off v :: rest ∧ 0x0200 ≤ off ∧ off < 0x0400) ∧
    (t.key ≠ s.key → s.pending = none ∧
      ∃ off v rest, s.inputs = .write 32 off v :: rest ∧ 0x0020 ≤ off ∧ off < 0x0040) ∧
    (t.mode ≠ s.mode → s.pending = none ∧ ∃ v rest, s.inputs = .write 32 0x0010 v :: rest) ∧
    (∀ a, dbufByte t a ≠ dbufByte s a → s.pending = none ∧
      ∃ off v rest, s.inputs = .write 32 off v :: rest ∧ off ≤ 0x1000 + a ∧ 0x1000 + a < off + 4)

/-! ### The output stream -/

/-- R139: OUT, and that XOF with XOF_CTR = c leaves bytes(XOUT) = OUT[64c .. 64c+63]. -/
def Obligations.XofBlockIsStreamBlock : Prop :=
  (∀ (seed : Seed) (o : Nat), outputByte seed o =
    (bytesOf (compress { cv := seed.cv, m := seed.m, counter := BitVec.ofNat 64 (o / 64),
                         blockLen := seed.blockLen, flags := seed.flags ||| 0x08 }).toList).getD (o % 64) 0) ∧
  (∀ s t : State, exec .xof s = .next t →
    bytesOf t.xout.toList = (List.range 64).map fun i => outputByte s.seed (64 * s.xofCtr.toNat + i))

/-- R140: after FINALIZE, k XOF commands in a row with no write to XOF_CTR produce OUT[0 .. 64k-1] in order, one block
each. -/
def Obligations.XofRunGivesStream : Prop :=
  ∀ (s : State) (states : Nat → State) (k : Nat), k ≤ 2 ^ 64 → exec .finalize s = .next (states 0) →
    (∀ j, j < k → exec .xof (states j) = .next (states (j + 1))) →
    ((List.range k).flatMap fun j => bytesOf (states (j + 1)).xout.toList) = outputBytes (states 0).seed (64 * k)

/-- R141: writing XOF_CTR = c, its halves in either order, and then issuing XOF gives OUT[64c .. 64c+63], whatever
blocks were produced before. -/
def Obligations.XofRandomAccess : Prop :=
  ∀ (c : Counter) (s : State), s.pending = none → s.seedValid = true →
    (∃ s1 s2 s3 t, busWrite 32 0x0040 (c.extractLsb' 0 32) s = .next s1 ∧
      busWrite 32 0x0044 (c.extractLsb' 32 32) s1 = .next s2 ∧ busWrite 32 0x0004 0x00000004 s2 = .next s3 ∧
      s3.pending = some .xof ∧ exec .xof s3 = .next t ∧
      bytesOf t.xout.toList = (List.range 64).map fun i => outputByte s.seed (64 * c.toNat + i)) ∧
    (∃ s1 s2 s3 t, busWrite 32 0x0044 (c.extractLsb' 32 32) s = .next s1 ∧
      busWrite 32 0x0040 (c.extractLsb' 0 32) s1 = .next s2 ∧ busWrite 32 0x0004 0x00000004 s2 = .next s3 ∧
      s3.pending = some .xof ∧ exec .xof s3 = .next t ∧
      bytesOf t.xout.toList = (List.range 64).map fun i => outputByte s.seed (64 * c.toNat + i))

/-- R111, R112, R113, R115, R125, R138 (log 15): the flags of the seed are one of the two forms, and XOF's compression
has them with ROOT added; where H_MODE does not hold the ROOT bit itself, neither the seed nor any other compression of
the engine's own does: the intermediate blocks of a chunk, its final block (whose CV is pushed or folded), the parents
merged in a push or in the fold, and the blocks of the four-chunk path. COMPRESS and COMPRESS4 take their flags from the
lane bank as they stand. -/
def Obligations.RootFlagOnlyFromXof : Prop :=
  (∀ h : HashState,
    (h.stack = [] → (rootSeed h).flags = h.hMode ||| 0x02 ||| (if h.cs.blocks = 0 then 0x01 else 0)) ∧
    (h.stack ≠ [] → (rootSeed h).flags = h.hMode ||| 0x04) ∧
    (∀ c, ((seedOf (rootSeed h)).operands c).flags = (rootSeed h).flags ||| 0x08) ∧
    (∀ c, ((seedOf (rootSeed h)).operands c).flags.getLsbD 3 = true) ∧
    (h.hMode.getLsbD 3 = false → (rootSeed h).flags.getLsbD 3 = false)) ∧
  (∀ mode : DomainFlags, mode.getLsbD 3 = false →
    (∀ blocks : Fin 16, (blockFlags mode blocks).getLsbD 3 = false ∧ (finalFlags mode blocks).getLsbD 3 = false) ∧
    (parentFlags mode).getLsbD 3 = false ∧
    (∀ cs : ChunkState, (blockOperands mode cs).flags.getLsbD 3 = false ∧ (chunkOutput mode cs).flags.getLsbD 3 = false) ∧
    (∀ key left right : Cv, (parentOutput key mode left right).flags.getLsbD 3 = false) ∧
    (∀ (cv : Cv) (ctr : Counter) (chunk : List Byte) (b : Fin 16),
      (wholeChunkBlock mode cv ctr chunk b).flags.getLsbD 3 = false)) ∧
  (∀ b : LaneBank, b.operands.flags = b.flags)

/-- R108, R109: four whole chunks by the batched path and then one byte leave what the byte loop leaves. -/
def Obligations.FourChunkPathEqualsByteLoop : Prop :=
  ∀ (h : HashState) (chunks : Vector (List Byte) 4) (x : Byte), h.cs = newChunk h.hKey h.cs.ctr →
    (∀ k : Fin 4, chunks[k].length = 1024) →
    absorb h (chunks.toList.flatten ++ [x]) =
      { absorbFourChunks h chunks with cs := appendByte (absorbFourChunks h chunks).cs x }

/-- R121: an accepted UPDATE takes the total to what it was plus LEN, within 2^74. -/
def Obligations.AcceptedUpdateCountsBytes : Prop :=
  ∀ (off : BitVec 12) (len : BitVec 13) (s t : State), acceptError (.update off len) s = none →
    exec (.update off len) s = .next t →
    t.hash.cs.totalBytes = s.hash.cs.totalBytes + len.toNat ∧ t.hash.cs.totalBytes ≤ 2 ^ 74

/-! ### The end of a run -/

/-- R183 (log 20): at the end of a run every aligned read returns the observed value of its register, and while no reset
acts the run stays over with the same observation, however many steps are taken. -/
def Obligations.RunOverIsObservable : Prop :=
  ∀ s : State, RunOver s →
    (∀ n, n < 2048 → ∃ v, (observation s).registers[n]? = some v ∧
      busRead 32 (4 * n) s = .next { s with replies := s.replies ++ [v] }) ∧
    ((observation s).hidden = s.hash ∧ (observation s).irq = s.irq) ∧
    ((∀ e ∈ s.inputs, e ≠ .reset) → ∀ k, ∃ t, core.run k s = .next t ∧ RunOver t ∧ observation t = observation s)
end

