-- ==== Sys2Proof/Laws/Memory.lean ====
section
/-! SUPPORT. DBUF: a read after a write, and that every operation keeps the canonical form (log 5). -/

namespace Sys2Proof.Machine

theorem dbufLookup_insert_same (m : List Host.Cell) (a : Nat) (b : Byte) :
    dbufLookup (dbufInsert m a b) a = some b := by
  induction m with
  | nil => simp [dbufInsert, dbufLookup]
  | cons c rest ih =>
    obtain ⟨a', b'⟩ := c
    unfold dbufInsert
    split
    · simp [dbufLookup]
    · split
      · simp [dbufLookup]
      · rename_i h
        simp [dbufLookup, h, ih]

theorem dbufLookup_insert_other (m : List Host.Cell) {a a' : Nat} (b : Byte) (h : a' ≠ a) :
    dbufLookup (dbufInsert m a b) a' = dbufLookup m a' := by
  induction m with
  | nil => simp [dbufInsert, dbufLookup, h]
  | cons c rest ih =>
    obtain ⟨x, y⟩ := c
    unfold dbufInsert
    split
    · simp [dbufLookup, h]
    · split
      · rename_i hx
        simp [dbufLookup, h, ← hx]
      · simp [dbufLookup, ih]

/-- Reading back what was written, and nothing else changed. -/
theorem dbufLookup_insert (m : List Host.Cell) (a a' : Nat) (b : Byte) :
    dbufLookup (dbufInsert m a b) a' = if a' = a then some b else dbufLookup m a' := by
  split
  · rename_i h; rw [h, dbufLookup_insert_same]
  · rename_i h; exact dbufLookup_insert_other m b h

theorem dbufWfFrom_mono {lo lo' : Nat} (h : lo' ≤ lo) (m : List Host.Cell) (hm : dbufWfFrom lo m = true) :
    dbufWfFrom lo' m = true := by
  cases m with
  | nil => rfl
  | cons c rest =>
    obtain ⟨a, b⟩ := c
    simp only [dbufWfFrom, Bool.and_eq_true, decide_eq_true_eq] at hm ⊢
    exact ⟨⟨by omega, hm.1.2⟩, hm.2⟩

theorem dbufInsert_wfFrom {lo a : Nat} (b : Byte) (m : List Host.Cell) (hlo : lo ≤ a) (ha : a < dbufBytes)
    (hm : dbufWfFrom lo m = true) : dbufWfFrom lo (dbufInsert m a b) = true := by
  induction m generalizing lo with
  | nil => simp only [dbufInsert, dbufWfFrom, Bool.and_true, Bool.and_eq_true, decide_eq_true_eq]; exact ⟨hlo, ha⟩
  | cons c rest ih =>
    obtain ⟨x, y⟩ := c
    simp only [dbufWfFrom, Bool.and_eq_true, decide_eq_true_eq] at hm
    unfold dbufInsert
    split
    · simp only [dbufWfFrom, Bool.and_eq_true, decide_eq_true_eq]
      exact ⟨⟨hlo, ha⟩, ⟨by omega, hm.1.2⟩, hm.2⟩
    · split
      · rename_i hx
        simp only [dbufWfFrom, Bool.and_eq_true, decide_eq_true_eq]
        exact ⟨⟨hlo, ha⟩, hx ▸ hm.2⟩
      · simp only [dbufWfFrom, Bool.and_eq_true, decide_eq_true_eq]
        exact ⟨hm.1, ih (by omega) hm.2⟩

/-- A byte write inside DBUF keeps the canonical form. -/
theorem dbufInsert_wf {a : Nat} (b : Byte) {m : List Host.Cell} (ha : a < dbufBytes) (hm : Memory.wf m = true) :
    Memory.wf (dbufInsert m a b) = true := dbufInsert_wfFrom b m (Nat.zero_le a) ha hm

/-- A bus write to a DBUF word keeps the canonical form (R55). -/
theorem dbufWriteWord_wf {m : List Host.Cell} (j : Fin 1024) (v : Word) (hm : Memory.wf m = true) :
    Memory.wf (dbufWriteWord m j v) = true := by
  have hj := j.isLt
  have hb : dbufBytes = 4096 := rfl
  unfold dbufWriteWord
  exact dbufInsert_wf _ (by omega) (dbufInsert_wf _ (by omega)
    (dbufInsert_wf _ (by omega) (dbufInsert_wf _ (by omega) hm)))

theorem reset_dbuf_wf : Memory.wf State.reset.dbuf = true := rfl

/-- The byte at `a` depends on DBUF and the count of resets alone. -/
theorem dbufByte_congr {s t : State} (hd : t.dbuf = s.dbuf) (hr : t.resets = s.resets) (a : Nat) :
    dbufByte t a = dbufByte s a := by
  simp [dbufByte, hd, hr]

theorem memRead_congr {s t : State} (hd : t.dbuf = s.dbuf) (hr : t.resets = s.resets) (off n : Nat) :
    memRead t off n = memRead s off n := by
  simp [memRead, dbufByte_congr hd hr]

theorem memRead_length (s : State) (off n : Nat) : (memRead s off n).length = n := by simp [memRead]

/-- Reading m + n bytes is reading m and then n (R10). -/
theorem memRead_add (s : State) (off m n : Nat) :
    memRead s off (m + n) = memRead s off m ++ memRead s (off + m) n := by
  simp [memRead, List.range_add, Function.comp_def, Nat.add_assoc]

/-- Every byte of DBUF after a bus write of word j: the four bytes of the word, the others as before (R55). -/
theorem dbufByte_writeWord (s : State) (j : Nat) (v : Word) (a : Nat) :
    dbufByte { s with dbuf := dbufWriteWord s.dbuf j v } a =
      if a = 4 * j + 3 then wordByte v 3
      else if a = 4 * j + 2 then wordByte v 2
      else if a = 4 * j + 1 then wordByte v 1
      else if a = 4 * j then wordByte v 0
      else dbufByte s a := by
  simp only [dbufByte, dbufWriteWord, dbufLookup_insert]
  split <;> [rfl; (split <;> [rfl; (split <;> [rfl; (split <;> rfl)])])]

end Sys2Proof.Machine
end

