-- ==== Sys2Proof/Laws/Observation.lean ====
section
/-! SUPPORT. What the end of a run says of the bus, and what the observation depends on (70_reset_and_hazards.md R183). -/

namespace Sys2Proof.Machine

theorem RunOver.busy {s : State} (h : RunOver s) : s.busy = false := by simp [State.busy, h.2]

/-- At the end of a run a bus read returns the true value of every register (R46). -/
theorem RunOver.busValue {s : State} (h : RunOver s) (r : Reg) : busValue r s = readReg r s := by
  simp [Sys2Proof.Machine.busValue, h.busy]

/-- The observed value of the register at offset 4n. -/
theorem observation_registers_get (s : State) {n : Nat} (h : n < 2048) :
    (observation s).registers[n]? = some (readReg (Reg.ofOffset (4 * n)) s) := by
  simp [observation, h]

/-- The inputs still to come, and what the host has read, are not observed. -/
theorem observation_outside (s : State) (l : List Input) (r : List Word) :
    observation { s with inputs := l, replies := r } = observation s := by
  have h : ∀ reg : Reg, readReg reg { s with inputs := l, replies := r } = readReg reg s := by
    intro reg; cases reg <;> rfl
  unfold observation
  simp only [h]
  rfl

end Sys2Proof.Machine
end

