-- ==== Sys2Proof/Laws/Operands.lean ====
section
/-! SUPPORT. Words and their bytes, counters and their halves. -/

namespace Sys2Proof.Machine

/-- The four bytes of a word, least significant first, give the word back (R9). -/
theorem le32_wordByte (v : Word) :
    le32 (wordByte v 0) (wordByte v 1) (wordByte v 2) (wordByte v 3) = v := by
  apply BitVec.eq_of_toNat_eq
  have := v.isLt
  simp only [le32, wordByte, BitVec.toNat_append, BitVec.extractLsb'_toNat, Nat.shiftRight_eq_div_pow, Nat.shiftLeft_eq]
  rw [← Nat.shiftLeft_eq, ← Nat.shiftLeft_eq, ← Nat.shiftLeft_eq]
  rw [← Nat.shiftLeft_add_eq_or_of_lt (by omega), ← Nat.shiftLeft_add_eq_or_of_lt (by omega),
    ← Nat.shiftLeft_add_eq_or_of_lt (by omega)]
  simp only [Nat.shiftLeft_eq]
  omega

/-- The bytes of `LE32(b0, b1, b2, b3)` (R9). -/
theorem wordByte_le32 (b0 b1 b2 b3 : Byte) :
    wordByte (le32 b0 b1 b2 b3) 0 = b0 ∧ wordByte (le32 b0 b1 b2 b3) 1 = b1 ∧
      wordByte (le32 b0 b1 b2 b3) 2 = b2 ∧ wordByte (le32 b0 b1 b2 b3) 3 = b3 := by
  have h0 := b0.isLt; have h1 := b1.isLt; have h2 := b2.isLt; have h3 := b3.isLt
  refine ⟨?_, ?_, ?_, ?_⟩ <;>
  · apply BitVec.eq_of_toNat_eq
    simp only [le32, wordByte, BitVec.toNat_append, BitVec.extractLsb'_toNat, Nat.shiftRight_eq_div_pow]
    rw [← Nat.shiftLeft_add_eq_or_of_lt h0, ← Nat.shiftLeft_add_eq_or_of_lt h1, ← Nat.shiftLeft_add_eq_or_of_lt h2]
    simp only [Nat.shiftLeft_eq]
    omega

/-- A counter's low half is the half it was made from (R25, R80). -/
@[simp] theorem ctrLow_ctrOf (h l : Word) : ctrLow (ctrOf h l) = l := by
  have := h.isLt; have := l.isLt
  apply BitVec.eq_of_toNat_eq
  simp only [ctrLow, ctrOf, BitVec.toNat_append, BitVec.extractLsb'_toNat, Nat.shiftRight_eq_div_pow]
  rw [← Nat.shiftLeft_add_eq_or_of_lt l.isLt]
  simp only [Nat.shiftLeft_eq]
  omega

/-- A counter's high half is the half it was made from (R25, R80). -/
@[simp] theorem ctrHigh_ctrOf (h l : Word) : ctrHigh (ctrOf h l) = h := by
  have := h.isLt; have := l.isLt
  apply BitVec.eq_of_toNat_eq
  simp only [ctrHigh, ctrOf, BitVec.toNat_append, BitVec.extractLsb'_toNat, Nat.shiftRight_eq_div_pow]
  rw [← Nat.shiftLeft_add_eq_or_of_lt l.isLt]
  simp only [Nat.shiftLeft_eq]
  omega

end Sys2Proof.Machine
end

