-- ==== Sys2Proof/Laws/PerInstr.lean ====
section
/-! SUPPORT. The statement made of every command: its encoding carries its opcode, OFF and LEN in their fields and
RSV = 0 (30_encoding.md R74, R84). -/

namespace Sys2Proof.Laws.EncodedFields

/-- The four fields of a command's word (R74). -/
def Statement (i : Instr) : Prop :=
  opField (encode i) = i.opcode ∧ offField (encode i) = i.off ∧ lenField (encode i) = i.len ∧
    rsvField (encode i) = 0

theorem init : Statement .init := by unfold Statement; decide
theorem update (off : BitVec 12) (len : BitVec 13) : Statement (.update off len) := by
  refine ⟨?_, ?_, ?_, ?_⟩ <;>
    (simp only [opField, offField, lenField, rsvField, encode, Instr.opcode, Instr.off, Instr.len]
     ext j hj
     interval_cases j <;> simp)
theorem finalize : Statement .finalize := by unfold Statement; decide
theorem xof : Statement .xof := by unfold Statement; decide
theorem compress : Statement .compress := by unfold Statement; decide
theorem compress4 : Statement .compress4 := by unfold Statement; decide

end Sys2Proof.Laws.EncodedFields
end

