-- ==== Sys2Proof/Laws/State.lean ====
section
/-! SUPPORT. One lemma per field per named update of State, so that no proof unfolds a record update; and the one
lemma that says everything an operation on STATUS does. -/

namespace Sys2Proof.Machine

/-! ### `accept` -/

@[simp] theorem accept_pending (i : Instr) (s : State) : (accept i s).pending = some i := rfl
@[simp] theorem accept_done (i : Instr) (s : State) : (accept i s).done = s.done := rfl
@[simp] theorem accept_err (i : Instr) (s : State) : (accept i s).err = s.err := rfl
@[simp] theorem accept_seedValid (i : Instr) (s : State) : (accept i s).seedValid = s.seedValid := rfl
@[simp] theorem accept_irqEn (i : Instr) (s : State) : (accept i s).irqEn = s.irqEn := rfl
@[simp] theorem accept_mode (i : Instr) (s : State) : (accept i s).mode = s.mode := rfl
@[simp] theorem accept_key (i : Instr) (s : State) : (accept i s).key = s.key := rfl
@[simp] theorem accept_xofCtr (i : Instr) (s : State) : (accept i s).xofCtr = s.xofCtr := rfl
@[simp] theorem accept_seed (i : Instr) (s : State) : (accept i s).seed = s.seed := rfl
@[simp] theorem accept_xout (i : Instr) (s : State) : (accept i s).xout = s.xout := rfl
@[simp] theorem accept_lanes (i : Instr) (s : State) : (accept i s).lanes = s.lanes := rfl
@[simp] theorem accept_res (i : Instr) (s : State) : (accept i s).res = s.res := rfl
@[simp] theorem accept_dbuf (i : Instr) (s : State) : (accept i s).dbuf = s.dbuf := rfl
@[simp] theorem accept_hash (i : Instr) (s : State) : (accept i s).hash = s.hash := rfl
@[simp] theorem accept_inputs (i : Instr) (s : State) : (accept i s).inputs = s.inputs := rfl
@[simp] theorem accept_replies (i : Instr) (s : State) : (accept i s).replies = s.replies := rfl
@[simp] theorem accept_draws (i : Instr) (s : State) : (accept i s).draws = s.draws := rfl
@[simp] theorem accept_resets (i : Instr) (s : State) : (accept i s).resets = s.resets := rfl

/-! ### `complete` -/

@[simp] theorem complete_pending (s : State) : (complete s).pending = none := rfl
@[simp] theorem complete_done (s : State) : (complete s).done = true := rfl
@[simp] theorem complete_err (s : State) : (complete s).err = s.err := rfl
@[simp] theorem complete_seedValid (s : State) : (complete s).seedValid = s.seedValid := rfl
@[simp] theorem complete_irqEn (s : State) : (complete s).irqEn = s.irqEn := rfl
@[simp] theorem complete_mode (s : State) : (complete s).mode = s.mode := rfl
@[simp] theorem complete_key (s : State) : (complete s).key = s.key := rfl
@[simp] theorem complete_xofCtr (s : State) : (complete s).xofCtr = s.xofCtr := rfl
@[simp] theorem complete_seed (s : State) : (complete s).seed = s.seed := rfl
@[simp] theorem complete_xout (s : State) : (complete s).xout = s.xout := rfl
@[simp] theorem complete_lanes (s : State) : (complete s).lanes = s.lanes := rfl
@[simp] theorem complete_res (s : State) : (complete s).res = s.res := rfl
@[simp] theorem complete_dbuf (s : State) : (complete s).dbuf = s.dbuf := rfl
@[simp] theorem complete_hash (s : State) : (complete s).hash = s.hash := rfl
@[simp] theorem complete_inputs (s : State) : (complete s).inputs = s.inputs := rfl
@[simp] theorem complete_replies (s : State) : (complete s).replies = s.replies := rfl
@[simp] theorem complete_draws (s : State) : (complete s).draws = s.draws := rfl
@[simp] theorem complete_resets (s : State) : (complete s).resets = s.resets := rfl

/-! ### `writeStatus` -/

@[simp] theorem writeStatus_pending (v : Word) (s : State) : (writeStatus v s).pending = s.pending := rfl
@[simp] theorem writeStatus_done (v : Word) (s : State) : (writeStatus v s).done = (s.done && !(v.getLsbD 1)) := rfl
@[simp] theorem writeStatus_err (v : Word) (s : State) : (writeStatus v s).err = (if v.getLsbD 2 then none else s.err) := rfl
@[simp] theorem writeStatus_seedValid (v : Word) (s : State) : (writeStatus v s).seedValid = s.seedValid := rfl
@[simp] theorem writeStatus_irqEn (v : Word) (s : State) : (writeStatus v s).irqEn = s.irqEn := rfl
@[simp] theorem writeStatus_mode (v : Word) (s : State) : (writeStatus v s).mode = s.mode := rfl
@[simp] theorem writeStatus_key (v : Word) (s : State) : (writeStatus v s).key = s.key := rfl
@[simp] theorem writeStatus_xofCtr (v : Word) (s : State) : (writeStatus v s).xofCtr = s.xofCtr := rfl
@[simp] theorem writeStatus_seed (v : Word) (s : State) : (writeStatus v s).seed = s.seed := rfl
@[simp] theorem writeStatus_xout (v : Word) (s : State) : (writeStatus v s).xout = s.xout := rfl
@[simp] theorem writeStatus_lanes (v : Word) (s : State) : (writeStatus v s).lanes = s.lanes := rfl
@[simp] theorem writeStatus_res (v : Word) (s : State) : (writeStatus v s).res = s.res := rfl
@[simp] theorem writeStatus_dbuf (v : Word) (s : State) : (writeStatus v s).dbuf = s.dbuf := rfl
@[simp] theorem writeStatus_hash (v : Word) (s : State) : (writeStatus v s).hash = s.hash := rfl
@[simp] theorem writeStatus_inputs (v : Word) (s : State) : (writeStatus v s).inputs = s.inputs := rfl
@[simp] theorem writeStatus_replies (v : Word) (s : State) : (writeStatus v s).replies = s.replies := rfl
@[simp] theorem writeStatus_draws (v : Word) (s : State) : (writeStatus v s).draws = s.draws := rfl
@[simp] theorem writeStatus_resets (v : Word) (s : State) : (writeStatus v s).resets = s.resets := rfl

/-! ### `reply` -/

@[simp] theorem reply_pending (v : Word) (s : State) : (reply v s).pending = s.pending := rfl
@[simp] theorem reply_done (v : Word) (s : State) : (reply v s).done = s.done := rfl
@[simp] theorem reply_err (v : Word) (s : State) : (reply v s).err = s.err := rfl
@[simp] theorem reply_seedValid (v : Word) (s : State) : (reply v s).seedValid = s.seedValid := rfl
@[simp] theorem reply_irqEn (v : Word) (s : State) : (reply v s).irqEn = s.irqEn := rfl
@[simp] theorem reply_mode (v : Word) (s : State) : (reply v s).mode = s.mode := rfl
@[simp] theorem reply_key (v : Word) (s : State) : (reply v s).key = s.key := rfl
@[simp] theorem reply_xofCtr (v : Word) (s : State) : (reply v s).xofCtr = s.xofCtr := rfl
@[simp] theorem reply_seed (v : Word) (s : State) : (reply v s).seed = s.seed := rfl
@[simp] theorem reply_xout (v : Word) (s : State) : (reply v s).xout = s.xout := rfl
@[simp] theorem reply_lanes (v : Word) (s : State) : (reply v s).lanes = s.lanes := rfl
@[simp] theorem reply_res (v : Word) (s : State) : (reply v s).res = s.res := rfl
@[simp] theorem reply_dbuf (v : Word) (s : State) : (reply v s).dbuf = s.dbuf := rfl
@[simp] theorem reply_hash (v : Word) (s : State) : (reply v s).hash = s.hash := rfl
@[simp] theorem reply_inputs (v : Word) (s : State) : (reply v s).inputs = s.inputs := rfl
@[simp] theorem reply_replies (v : Word) (s : State) : (reply v s).replies = s.replies ++ [v] := rfl
@[simp] theorem reply_draws (v : Word) (s : State) : (reply v s).draws = s.draws := rfl
@[simp] theorem reply_resets (v : Word) (s : State) : (reply v s).resets = s.resets := rfl

/-! ### `setLane` -/

@[simp] theorem setLane_pending (k : Fin 4) (f : LaneBank → LaneBank) (s : State) : (setLane k f s).pending = s.pending := rfl
@[simp] theorem setLane_done (k : Fin 4) (f : LaneBank → LaneBank) (s : State) : (setLane k f s).done = s.done := rfl
@[simp] theorem setLane_err (k : Fin 4) (f : LaneBank → LaneBank) (s : State) : (setLane k f s).err = s.err := rfl
@[simp] theorem setLane_seedValid (k : Fin 4) (f : LaneBank → LaneBank) (s : State) : (setLane k f s).seedValid = s.seedValid := rfl
@[simp] theorem setLane_irqEn (k : Fin 4) (f : LaneBank → LaneBank) (s : State) : (setLane k f s).irqEn = s.irqEn := rfl
@[simp] theorem setLane_mode (k : Fin 4) (f : LaneBank → LaneBank) (s : State) : (setLane k f s).mode = s.mode := rfl
@[simp] theorem setLane_key (k : Fin 4) (f : LaneBank → LaneBank) (s : State) : (setLane k f s).key = s.key := rfl
@[simp] theorem setLane_xofCtr (k : Fin 4) (f : LaneBank → LaneBank) (s : State) : (setLane k f s).xofCtr = s.xofCtr := rfl
@[simp] theorem setLane_seed (k : Fin 4) (f : LaneBank → LaneBank) (s : State) : (setLane k f s).seed = s.seed := rfl
@[simp] theorem setLane_xout (k : Fin 4) (f : LaneBank → LaneBank) (s : State) : (setLane k f s).xout = s.xout := rfl
@[simp] theorem setLane_lanes (k : Fin 4) (f : LaneBank → LaneBank) (s : State) : (setLane k f s).lanes = s.lanes.set k (f s.lanes[k]) := rfl
@[simp] theorem setLane_res (k : Fin 4) (f : LaneBank → LaneBank) (s : State) : (setLane k f s).res = s.res := rfl
@[simp] theorem setLane_dbuf (k : Fin 4) (f : LaneBank → LaneBank) (s : State) : (setLane k f s).dbuf = s.dbuf := rfl
@[simp] theorem setLane_hash (k : Fin 4) (f : LaneBank → LaneBank) (s : State) : (setLane k f s).hash = s.hash := rfl
@[simp] theorem setLane_inputs (k : Fin 4) (f : LaneBank → LaneBank) (s : State) : (setLane k f s).inputs = s.inputs := rfl
@[simp] theorem setLane_replies (k : Fin 4) (f : LaneBank → LaneBank) (s : State) : (setLane k f s).replies = s.replies := rfl
@[simp] theorem setLane_draws (k : Fin 4) (f : LaneBank → LaneBank) (s : State) : (setLane k f s).draws = s.draws := rfl
@[simp] theorem setLane_resets (k : Fin 4) (f : LaneBank → LaneBank) (s : State) : (setLane k f s).resets = s.resets := rfl

/-! ### `resetEngine` (R169) -/

@[simp] theorem resetEngine_pending (s : State) : (resetEngine s).pending = State.reset.pending := rfl
@[simp] theorem resetEngine_done (s : State) : (resetEngine s).done = State.reset.done := rfl
@[simp] theorem resetEngine_err (s : State) : (resetEngine s).err = State.reset.err := rfl
@[simp] theorem resetEngine_seedValid (s : State) : (resetEngine s).seedValid = State.reset.seedValid := rfl
@[simp] theorem resetEngine_irqEn (s : State) : (resetEngine s).irqEn = State.reset.irqEn := rfl
@[simp] theorem resetEngine_mode (s : State) : (resetEngine s).mode = State.reset.mode := rfl
@[simp] theorem resetEngine_key (s : State) : (resetEngine s).key = State.reset.key := rfl
@[simp] theorem resetEngine_xofCtr (s : State) : (resetEngine s).xofCtr = State.reset.xofCtr := rfl
@[simp] theorem resetEngine_seed (s : State) : (resetEngine s).seed = State.reset.seed := rfl
@[simp] theorem resetEngine_xout (s : State) : (resetEngine s).xout = State.reset.xout := rfl
@[simp] theorem resetEngine_lanes (s : State) : (resetEngine s).lanes = State.reset.lanes := rfl
@[simp] theorem resetEngine_res (s : State) : (resetEngine s).res = State.reset.res := rfl
@[simp] theorem resetEngine_dbuf (s : State) : (resetEngine s).dbuf = State.reset.dbuf := rfl
@[simp] theorem resetEngine_hash (s : State) : (resetEngine s).hash = State.reset.hash := rfl
@[simp] theorem resetEngine_inputs (s : State) : (resetEngine s).inputs = s.inputs := rfl
@[simp] theorem resetEngine_replies (s : State) : (resetEngine s).replies = s.replies := rfl
@[simp] theorem resetEngine_draws (s : State) : (resetEngine s).draws = s.draws := rfl
@[simp] theorem resetEngine_resets (s : State) : (resetEngine s).resets = s.resets + 1 := rfl

/-! ### `recordError` (R153): only ERR and ERR_CODE can change -/

@[simp] theorem recordError_pending (e : ErrorCode) (s : State) : (recordError e s).pending = s.pending := by
  unfold recordError; split <;> rfl
@[simp] theorem recordError_done (e : ErrorCode) (s : State) : (recordError e s).done = s.done := by
  unfold recordError; split <;> rfl
@[simp] theorem recordError_seedValid (e : ErrorCode) (s : State) : (recordError e s).seedValid = s.seedValid := by
  unfold recordError; split <;> rfl
@[simp] theorem recordError_irqEn (e : ErrorCode) (s : State) : (recordError e s).irqEn = s.irqEn := by
  unfold recordError; split <;> rfl
@[simp] theorem recordError_mode (e : ErrorCode) (s : State) : (recordError e s).mode = s.mode := by
  unfold recordError; split <;> rfl
@[simp] theorem recordError_key (e : ErrorCode) (s : State) : (recordError e s).key = s.key := by
  unfold recordError; split <;> rfl
@[simp] theorem recordError_xofCtr (e : ErrorCode) (s : State) : (recordError e s).xofCtr = s.xofCtr := by
  unfold recordError; split <;> rfl
@[simp] theorem recordError_seed (e : ErrorCode) (s : State) : (recordError e s).seed = s.seed := by
  unfold recordError; split <;> rfl
@[simp] theorem recordError_xout (e : ErrorCode) (s : State) : (recordError e s).xout = s.xout := by
  unfold recordError; split <;> rfl
@[simp] theorem recordError_lanes (e : ErrorCode) (s : State) : (recordError e s).lanes = s.lanes := by
  unfold recordError; split <;> rfl
@[simp] theorem recordError_res (e : ErrorCode) (s : State) : (recordError e s).res = s.res := by
  unfold recordError; split <;> rfl
@[simp] theorem recordError_dbuf (e : ErrorCode) (s : State) : (recordError e s).dbuf = s.dbuf := by
  unfold recordError; split <;> rfl
@[simp] theorem recordError_hash (e : ErrorCode) (s : State) : (recordError e s).hash = s.hash := by
  unfold recordError; split <;> rfl
@[simp] theorem recordError_inputs (e : ErrorCode) (s : State) : (recordError e s).inputs = s.inputs := by
  unfold recordError; split <;> rfl
@[simp] theorem recordError_replies (e : ErrorCode) (s : State) : (recordError e s).replies = s.replies := by
  unfold recordError; split <;> rfl
@[simp] theorem recordError_draws (e : ErrorCode) (s : State) : (recordError e s).draws = s.draws := by
  unfold recordError; split <;> rfl
@[simp] theorem recordError_resets (e : ErrorCode) (s : State) : (recordError e s).resets = s.resets := by
  unfold recordError; split <;> rfl

/-! ### `drawn` (U2): only the count of draws can change -/

@[simp] theorem drawn_pending (s : State) : (drawn s).pending = s.pending := by
  unfold drawn; split <;> rfl
@[simp] theorem drawn_done (s : State) : (drawn s).done = s.done := by
  unfold drawn; split <;> rfl
@[simp] theorem drawn_err (s : State) : (drawn s).err = s.err := by
  unfold drawn; split <;> rfl
@[simp] theorem drawn_seedValid (s : State) : (drawn s).seedValid = s.seedValid := by
  unfold drawn; split <;> rfl
@[simp] theorem drawn_irqEn (s : State) : (drawn s).irqEn = s.irqEn := by
  unfold drawn; split <;> rfl
@[simp] theorem drawn_mode (s : State) : (drawn s).mode = s.mode := by
  unfold drawn; split <;> rfl
@[simp] theorem drawn_key (s : State) : (drawn s).key = s.key := by
  unfold drawn; split <;> rfl
@[simp] theorem drawn_xofCtr (s : State) : (drawn s).xofCtr = s.xofCtr := by
  unfold drawn; split <;> rfl
@[simp] theorem drawn_seed (s : State) : (drawn s).seed = s.seed := by
  unfold drawn; split <;> rfl
@[simp] theorem drawn_xout (s : State) : (drawn s).xout = s.xout := by
  unfold drawn; split <;> rfl
@[simp] theorem drawn_lanes (s : State) : (drawn s).lanes = s.lanes := by
  unfold drawn; split <;> rfl
@[simp] theorem drawn_res (s : State) : (drawn s).res = s.res := by
  unfold drawn; split <;> rfl
@[simp] theorem drawn_dbuf (s : State) : (drawn s).dbuf = s.dbuf := by
  unfold drawn; split <;> rfl
@[simp] theorem drawn_hash (s : State) : (drawn s).hash = s.hash := by
  unfold drawn; split <;> rfl
@[simp] theorem drawn_inputs (s : State) : (drawn s).inputs = s.inputs := by
  unfold drawn; split <;> rfl
@[simp] theorem drawn_replies (s : State) : (drawn s).replies = s.replies := by
  unfold drawn; split <;> rfl
@[simp] theorem drawn_resets (s : State) : (drawn s).resets = s.resets := by
  unfold drawn; split <;> rfl

/-- Recording an error (R153): the first is kept. -/
theorem recordError_err (e : ErrorCode) (s : State) :
    (recordError e s).err = some (s.err.getD e) := by
  unfold recordError; split <;> simp_all

theorem recordError_of_none {e : ErrorCode} {s : State} (h : s.err = none) :
    recordError e s = { s with err := some e } := by
  unfold recordError; simp [h]

theorem recordError_of_some {e c : ErrorCode} {s : State} (h : s.err = some c) : recordError e s = s := by
  unfold recordError; simp [h]

/-- Everything recording an error can do (R153). -/
theorem recordError_cases (e : ErrorCode) (s : State) :
    (s.err = none ∧ recordError e s = { s with err := some e }) ∨
    ((∃ c, s.err = some c) ∧ recordError e s = s) := by
  cases h : s.err with
  | none => exact .inl ⟨rfl, recordError_of_none h⟩
  | some c => exact .inr ⟨⟨c, rfl⟩, recordError_of_some h⟩

/-- BUSY depends on PENDING alone (R45). -/
theorem busy_eq_of_pending {s t : State} (h : t.pending = s.pending) : t.busy = s.busy := by
  simp [State.busy, h]

@[simp] theorem busy_accept (i : Instr) (s : State) : (accept i s).busy = true := rfl
@[simp] theorem busy_complete (s : State) : (complete s).busy = false := rfl
@[simp] theorem busy_recordError (e : ErrorCode) (s : State) : (recordError e s).busy = s.busy := by
  simp [State.busy]
@[simp] theorem busy_reset : State.reset.busy = false := rfl

theorem busy_eq_false_iff {s : State} : s.busy = false ↔ s.pending = none := by
  simp [State.busy]

theorem busy_eq_true_iff {s : State} : s.busy = true ↔ ∃ i, s.pending = some i := by
  simp [State.busy, Option.isSome_iff_exists]

end Sys2Proof.Machine
end

