-- ==== Sys2Proof/Laws/Step.lean ====
section
/-! SUPPORT. What each shared operation and a step can do, said once: every later proof about a step cites these
instead of unfolding them. -/

namespace Sys2Proof.Machine

/-- Submitting a word while idle (R73, R81): an error recorded, or the command accepted. -/
theorem submit_cases (w : Word) (s : State) :
    (∃ r, decodeWord w = .error r ∧ submit w s = recordError .illegalCmd s) ∨
    (∃ i e, decodeWord w = .ok i ∧ acceptError i s = some e ∧ submit w s = recordError e s) ∨
    (∃ i, decodeWord w = .ok i ∧ acceptError i s = none ∧ submit w s = accept i s) := by
  unfold submit
  cases hd : decodeWord w with
  | error r => exact .inl ⟨r, rfl, rfl⟩
  | ok i =>
    cases ha : acceptError i s with
    | some e => exact .inr (.inl ⟨i, e, rfl, ha, by simp [ha]⟩)
    | none => exact .inr (.inr ⟨i, rfl, ha, by simp [ha]⟩)

/-- The checks of acceptance read SEED_VALID and CS alone (R81). -/
theorem acceptError_congr {s t : State} (i : Instr) (hv : t.seedValid = s.seedValid)
    (hc : t.hash.cs = s.hash.cs) : acceptError i t = acceptError i s := by
  simp [acceptError, hv, hc]

/-- A bus write that takes a step: inside the aperture, and either a register write or a bus error (R59). -/
theorem busWrite_next {width off : Nat} {v : Word} {s t : State} (h : busWrite width off v s = .next t) :
    off < 8192 ∧
    ((validAccess width off = true ∧ t = writeRegister (Reg.ofOffset off) v s) ∨
     (validAccess width off = false ∧ t = recordError .bus s)) := by
  unfold busWrite at h
  split at h
  · cases h
  · rename_i ho
    refine ⟨by simpa using ho, ?_⟩
    split at h <;> rename_i hv <;> cases h
    · exact .inl ⟨hv, rfl⟩
    · exact .inr ⟨by simpa using hv, rfl⟩

/-- A bus read that takes a step (R46, R59). -/
theorem busRead_next {width off : Nat} {s t : State} (h : busRead width off s = .next t) :
    off < 8192 ∧
    ((validAccess width off = true ∧ t = drawn (reply (busValue (Reg.ofOffset off) s) s)) ∨
     (validAccess width off = false ∧ t = reply 0 (recordError .bus s))) := by
  unfold busRead at h
  split at h
  · cases h
  · rename_i ho
    refine ⟨by simpa using ho, ?_⟩
    split at h <;> rename_i hv <;> cases h
    · exact .inl ⟨hv, rfl⟩
    · exact .inr ⟨by simpa using hv, rfl⟩

/-- A register write (R151): refused while BUSY, or performed. -/
theorem writeRegister_cases (r : Reg) (v : Word) (s : State) :
    (s.busy = true ∧ r.refusedWhileBusy = true ∧ writeRegister r v s = recordError .busy s) ∨
    ((s.busy = false ∨ r.refusedWhileBusy = false) ∧ writeRegister r v s = writeReg r v s) := by
  unfold writeRegister
  cases s.busy <;> cases r.refusedWhileBusy <;> simp

/-- Execution always ends in a next state (R149: "An accepted command always completes"). -/
theorem exec_next (i : Instr) (s : State) : ∃ t, exec i s = .next t := by
  cases i <;> exact ⟨_, rfl⟩

/-- Everything a step can do, when it answers a next state: the pending command ran, the idle engine waited, a bus
access acted, or the reset input did. -/
theorem step_cases {s t : State} (h : step s = .next t) :
    (∃ i rest, s.pending = some i ∧ (s.inputs = rest ∧ rest = [] ∨ s.inputs = .engineTurn :: rest) ∧
      exec i { s with inputs := rest } = .next t) ∨
    (∃ rest, s.pending = none ∧ (s.inputs = rest ∧ rest = [] ∨ s.inputs = .engineTurn :: rest) ∧
      t = { s with inputs := rest }) ∨
    (∃ width off v rest, s.inputs = .write width off v :: rest ∧
      busWrite width off v { s with inputs := rest } = .next t) ∨
    (∃ width off rest, s.inputs = .read width off :: rest ∧
      busRead width off { s with inputs := rest } = .next t) ∨
    (∃ rest, s.inputs = .reset :: rest ∧ t = resetEngine { s with inputs := rest }) := by
  unfold step engineStep at h
  split at h
  · rename_i hi
    have hs : { s with inputs := [] } = s := by rw [← hi]
    split at h
    · rename_i i hp
      exact .inl ⟨i, [], hp, .inl ⟨hi, rfl⟩, by rw [hs]; exact h⟩
    · rename_i hp
      cases h
      exact .inr (.inl ⟨[], hp, .inl ⟨hi, rfl⟩, hs.symm⟩)
  · rename_i rest hi
    split at h
    · rename_i i hp
      exact .inl ⟨i, rest, hp, .inr hi, h⟩
    · rename_i hp
      cases h
      exact .inr (.inl ⟨rest, hp, .inr hi, rfl⟩)
  · rename_i width off v rest hi
    exact .inr (.inr (.inl ⟨width, off, v, rest, hi, h⟩))
  · rename_i width off rest hi
    exact .inr (.inr (.inr (.inl ⟨width, off, rest, hi, h⟩)))
  · rename_i rest hi
    cases h
    exact .inr (.inr (.inr (.inr ⟨rest, hi, rfl⟩)))

end Sys2Proof.Machine
end

