-- ==== Sys2Proof/Laws/Pipeline.lean ====
section
/-! SUPPORT. The hash state's operations, each said once: the two "make room" steps, the byte loop, the push and the
fold (R117, R127, R131). -/

namespace Sys2Proof.Machine

@[simp] theorem newChunk_cv (k : Cv) (c : Counter) : (newChunk k c).cv = k := rfl
@[simp] theorem newChunk_ctr (k : Cv) (c : Counter) : (newChunk k c).ctr = c := rfl
@[simp] theorem newChunk_bufLen (k : Cv) (c : Counter) : (newChunk k c).bufLen = 0 := rfl
@[simp] theorem newChunk_blocks (k : Cv) (c : Counter) : (newChunk k c).blocks = 0 := rfl
@[simp] theorem newChunk_chunkLen (k : Cv) (c : Counter) : (newChunk k c).chunkLen = 0 := rfl
@[simp] theorem compressBlock_ctr (m : DomainFlags) (cs : ChunkState) : (compressBlock m cs).ctr = cs.ctr := rfl
@[simp] theorem compressBlock_bufLen (m : DomainFlags) (cs : ChunkState) : (compressBlock m cs).bufLen = 0 := rfl
@[simp] theorem compressBlock_blocks (m : DomainFlags) (cs : ChunkState) :
    (compressBlock m cs).blocks = cs.blocks + 1 := rfl
@[simp] theorem appendByte_cv (cs : ChunkState) (x : Byte) : (appendByte cs x).cv = cs.cv := rfl
@[simp] theorem appendByte_ctr (cs : ChunkState) (x : Byte) : (appendByte cs x).ctr = cs.ctr := rfl
@[simp] theorem appendByte_blocks (cs : ChunkState) (x : Byte) : (appendByte cs x).blocks = cs.blocks := rfl
@[simp] theorem appendByte_bufLen (cs : ChunkState) (x : Byte) : (appendByte cs x).bufLen = cs.bufLen + 1 := rfl
@[simp] theorem emitChunk_cs (h : HashState) : (emitChunk h).cs = newChunk h.hKey (h.cs.ctr + 1) := rfl
@[simp] theorem emitChunk_hKey (h : HashState) : (emitChunk h).hKey = h.hKey := rfl
@[simp] theorem emitChunk_hMode (h : HashState) : (emitChunk h).hMode = h.hMode := rfl

/-- CHUNK_LEN is in 0..1024 (R27, R41 (a)). -/
theorem chunkLen_le (cs : ChunkState) : cs.chunkLen ≤ 1024 := by
  have h1 := cs.blocks.isLt
  have h2 := cs.bufLen.isLt
  show cs.blocks.val * 64 + cs.bufLen.val ≤ 1024
  omega

/-- A chunk is full exactly when its sixteenth block is (R119). -/
theorem chunkLen_full (cs : ChunkState) : cs.chunkLen = 1024 ↔ cs.blocks.val = 15 ∧ cs.bufLen.val = 64 := by
  have h1 := cs.blocks.isLt
  have h2 := cs.bufLen.isLt
  show cs.blocks.val * 64 + cs.bufLen.val = 1024 ↔ _
  omega

theorem makeChunkRoom_cases (h : HashState) :
    (h.cs.chunkLen = 1024 ∧ makeChunkRoom h = emitChunk h) ∨ (h.cs.chunkLen ≠ 1024 ∧ makeChunkRoom h = h) := by
  unfold makeChunkRoom
  split
  · rename_i hc; exact .inl ⟨hc, rfl⟩
  · rename_i hc; exact .inr ⟨hc, rfl⟩

theorem makeBlockRoom_cases (h : HashState) :
    (h.cs.bufLen.val = 64 ∧ makeBlockRoom h = { h with cs := compressBlock h.hMode h.cs }) ∨
    (h.cs.bufLen.val ≠ 64 ∧ makeBlockRoom h = h) := by
  unfold makeBlockRoom
  split
  · rename_i hc; exact .inl ⟨hc, rfl⟩
  · rename_i hc; exact .inr ⟨hc, rfl⟩

/-- One byte of UPDATE does one of three things before the byte is stored (R117): the full chunk is emitted and a
new one opens, or the full block of a chunk that is not full is compressed, or there is room already. -/
theorem absorbByte_cases (h : HashState) (x : Byte) :
    (h.cs.blocks.val = 15 ∧ h.cs.bufLen.val = 64 ∧
      absorbByte h x = { emitChunk h with cs := appendByte (newChunk h.hKey (h.cs.ctr + 1)) x }) ∨
    (h.cs.blocks.val < 15 ∧ h.cs.bufLen.val = 64 ∧
      absorbByte h x = { h with cs := appendByte (compressBlock h.hMode h.cs) x }) ∨
    (h.cs.bufLen.val < 64 ∧ absorbByte h x = { h with cs := appendByte h.cs x }) := by
  have h1 := h.cs.blocks.isLt
  have h2 := h.cs.bufLen.isLt
  unfold absorbByte
  rcases makeChunkRoom_cases h with ⟨hc, e⟩ | ⟨hc, e⟩
  · left
    rw [chunkLen_full] at hc
    refine ⟨hc.1, hc.2, ?_⟩
    rcases makeBlockRoom_cases (emitChunk h) with ⟨hb, _⟩ | ⟨_, e'⟩
    · simp at hb
    · simp [e, e']
  · right
    rw [ne_eq, chunkLen_full] at hc
    rcases makeBlockRoom_cases h with ⟨hb, e'⟩ | ⟨hb, e'⟩
    · exact .inl ⟨by omega, hb, by simp [e, e']⟩
    · exact .inr ⟨by omega, by simp [e, e']⟩

@[simp] theorem absorbByte_hKey (h : HashState) (x : Byte) : (absorbByte h x).hKey = h.hKey := by
  rcases absorbByte_cases h x with ⟨_, _, e⟩ | ⟨_, _, e⟩ | ⟨_, e⟩ <;> simp [e]

@[simp] theorem absorbByte_hMode (h : HashState) (x : Byte) : (absorbByte h x).hMode = h.hMode := by
  rcases absorbByte_cases h x with ⟨_, _, e⟩ | ⟨_, _, e⟩ | ⟨_, e⟩ <;> simp [e]

@[simp] theorem absorb_nil (h : HashState) : absorb h [] = h := rfl

@[simp] theorem absorb_cons (h : HashState) (x : Byte) (xs : List Byte) :
    absorb h (x :: xs) = absorb (absorbByte h x) xs := rfl

@[simp] theorem absorb_hKey (h : HashState) (xs : List Byte) : (absorb h xs).hKey = h.hKey := by
  induction xs generalizing h with
  | nil => rfl
  | cons x xs ih => simp [ih]

@[simp] theorem absorb_hMode (h : HashState) (xs : List Byte) : (absorb h xs).hMode = h.hMode := by
  induction xs generalizing h with
  | nil => rfl
  | cons x xs ih => simp [ih]

/-- Every push leaves a non-empty stack (R127). -/
theorem accPush_ne_nil (k : Cv) (m : DomainFlags) (st : List Cv) (cv : Cv) (n : Counter) :
    accPush k m st cv n ≠ [] := by
  induction st generalizing cv n with
  | nil => simp [accPush]
  | cons l rest ih =>
    unfold accPush
    split
    · simp
    · exact ih _ _

theorem accPush_odd {k : Cv} {m : DomainFlags} {st : List Cv} {cv : Cv} {n : Counter} (h : n.getLsbD 0 = true) :
    accPush k m st cv n = cv :: st := by
  cases st with
  | nil => rfl
  | cons l rest => rw [accPush, if_pos h]

theorem accPush_even {k : Cv} {m : DomainFlags} {l : Cv} {st : List Cv} {cv : Cv} {n : Counter}
    (h : n.getLsbD 0 = false) :
    accPush k m (l :: st) cv n = accPush k m st (parentCv k m l cv) (n >>> 1) := by
  rw [accPush, h]; rfl

/-- The fold of R131 is a left fold from the top of the stack down. -/
theorem foldStack_eq_foldl (k : Cv) (m : DomainFlags) (st : List Cv) (o : Operands) :
    foldStack k m st o = st.foldl (fun o left => parentOutput k m left (chainingValue o)) o := by
  induction st generalizing o with
  | nil => rfl
  | cons l rest ih => simp [foldStack, ih]

end Sys2Proof.Machine
end

