-- ==== Sys2Proof/Laws/Registers.lean ====
section
/-! SUPPORT. What a bus write can and cannot change, and the offsets of the register map. -/

namespace Sys2Proof.Machine

/-! ### `submit` (R73, R81): only PENDING, ERR and ERR_CODE can change -/

@[simp] theorem submit_done (w : Word) (s : State) : (submit w s).done = s.done := by
  rcases submit_cases w s with ⟨r, _, h⟩ | ⟨i, e, _, _, h⟩ | ⟨i, _, _, h⟩ <;> simp [h]
@[simp] theorem submit_seedValid (w : Word) (s : State) : (submit w s).seedValid = s.seedValid := by
  rcases submit_cases w s with ⟨r, _, h⟩ | ⟨i, e, _, _, h⟩ | ⟨i, _, _, h⟩ <;> simp [h]
@[simp] theorem submit_irqEn (w : Word) (s : State) : (submit w s).irqEn = s.irqEn := by
  rcases submit_cases w s with ⟨r, _, h⟩ | ⟨i, e, _, _, h⟩ | ⟨i, _, _, h⟩ <;> simp [h]
@[simp] theorem submit_mode (w : Word) (s : State) : (submit w s).mode = s.mode := by
  rcases submit_cases w s with ⟨r, _, h⟩ | ⟨i, e, _, _, h⟩ | ⟨i, _, _, h⟩ <;> simp [h]
@[simp] theorem submit_key (w : Word) (s : State) : (submit w s).key = s.key := by
  rcases submit_cases w s with ⟨r, _, h⟩ | ⟨i, e, _, _, h⟩ | ⟨i, _, _, h⟩ <;> simp [h]
@[simp] theorem submit_xofCtr (w : Word) (s : State) : (submit w s).xofCtr = s.xofCtr := by
  rcases submit_cases w s with ⟨r, _, h⟩ | ⟨i, e, _, _, h⟩ | ⟨i, _, _, h⟩ <;> simp [h]
@[simp] theorem submit_seed (w : Word) (s : State) : (submit w s).seed = s.seed := by
  rcases submit_cases w s with ⟨r, _, h⟩ | ⟨i, e, _, _, h⟩ | ⟨i, _, _, h⟩ <;> simp [h]
@[simp] theorem submit_xout (w : Word) (s : State) : (submit w s).xout = s.xout := by
  rcases submit_cases w s with ⟨r, _, h⟩ | ⟨i, e, _, _, h⟩ | ⟨i, _, _, h⟩ <;> simp [h]
@[simp] theorem submit_lanes (w : Word) (s : State) : (submit w s).lanes = s.lanes := by
  rcases submit_cases w s with ⟨r, _, h⟩ | ⟨i, e, _, _, h⟩ | ⟨i, _, _, h⟩ <;> simp [h]
@[simp] theorem submit_res (w : Word) (s : State) : (submit w s).res = s.res := by
  rcases submit_cases w s with ⟨r, _, h⟩ | ⟨i, e, _, _, h⟩ | ⟨i, _, _, h⟩ <;> simp [h]
@[simp] theorem submit_dbuf (w : Word) (s : State) : (submit w s).dbuf = s.dbuf := by
  rcases submit_cases w s with ⟨r, _, h⟩ | ⟨i, e, _, _, h⟩ | ⟨i, _, _, h⟩ <;> simp [h]
@[simp] theorem submit_hash (w : Word) (s : State) : (submit w s).hash = s.hash := by
  rcases submit_cases w s with ⟨r, _, h⟩ | ⟨i, e, _, _, h⟩ | ⟨i, _, _, h⟩ <;> simp [h]
@[simp] theorem submit_inputs (w : Word) (s : State) : (submit w s).inputs = s.inputs := by
  rcases submit_cases w s with ⟨r, _, h⟩ | ⟨i, e, _, _, h⟩ | ⟨i, _, _, h⟩ <;> simp [h]
@[simp] theorem submit_replies (w : Word) (s : State) : (submit w s).replies = s.replies := by
  rcases submit_cases w s with ⟨r, _, h⟩ | ⟨i, e, _, _, h⟩ | ⟨i, _, _, h⟩ <;> simp [h]
@[simp] theorem submit_draws (w : Word) (s : State) : (submit w s).draws = s.draws := by
  rcases submit_cases w s with ⟨r, _, h⟩ | ⟨i, e, _, _, h⟩ | ⟨i, _, _, h⟩ <;> simp [h]
@[simp] theorem submit_resets (w : Word) (s : State) : (submit w s).resets = s.resets := by
  rcases submit_cases w s with ⟨r, _, h⟩ | ⟨i, e, _, _, h⟩ | ⟨i, _, _, h⟩ <;> simp [h]

/-! ### `writeReg` and `writeRegister`: what no bus write can change (R36, R38, R63) -/

@[simp] theorem writeReg_seedValid (r : Reg) (v : Word) (s : State) : (writeReg r v s).seedValid = s.seedValid := by
  cases r <;> simp [writeReg]
@[simp] theorem writeRegister_seedValid (r : Reg) (v : Word) (s : State) : (writeRegister r v s).seedValid = s.seedValid := by
  rcases writeRegister_cases r v s with ⟨_, _, h⟩ | ⟨_, h⟩ <;> simp [h]
@[simp] theorem writeReg_seed (r : Reg) (v : Word) (s : State) : (writeReg r v s).seed = s.seed := by
  cases r <;> simp [writeReg]
@[simp] theorem writeRegister_seed (r : Reg) (v : Word) (s : State) : (writeRegister r v s).seed = s.seed := by
  rcases writeRegister_cases r v s with ⟨_, _, h⟩ | ⟨_, h⟩ <;> simp [h]
@[simp] theorem writeReg_xout (r : Reg) (v : Word) (s : State) : (writeReg r v s).xout = s.xout := by
  cases r <;> simp [writeReg]
@[simp] theorem writeRegister_xout (r : Reg) (v : Word) (s : State) : (writeRegister r v s).xout = s.xout := by
  rcases writeRegister_cases r v s with ⟨_, _, h⟩ | ⟨_, h⟩ <;> simp [h]
@[simp] theorem writeReg_res (r : Reg) (v : Word) (s : State) : (writeReg r v s).res = s.res := by
  cases r <;> simp [writeReg]
@[simp] theorem writeRegister_res (r : Reg) (v : Word) (s : State) : (writeRegister r v s).res = s.res := by
  rcases writeRegister_cases r v s with ⟨_, _, h⟩ | ⟨_, h⟩ <;> simp [h]
@[simp] theorem writeReg_hash (r : Reg) (v : Word) (s : State) : (writeReg r v s).hash = s.hash := by
  cases r <;> simp [writeReg]
@[simp] theorem writeRegister_hash (r : Reg) (v : Word) (s : State) : (writeRegister r v s).hash = s.hash := by
  rcases writeRegister_cases r v s with ⟨_, _, h⟩ | ⟨_, h⟩ <;> simp [h]
@[simp] theorem writeReg_inputs (r : Reg) (v : Word) (s : State) : (writeReg r v s).inputs = s.inputs := by
  cases r <;> simp [writeReg]
@[simp] theorem writeRegister_inputs (r : Reg) (v : Word) (s : State) : (writeRegister r v s).inputs = s.inputs := by
  rcases writeRegister_cases r v s with ⟨_, _, h⟩ | ⟨_, h⟩ <;> simp [h]
@[simp] theorem writeReg_replies (r : Reg) (v : Word) (s : State) : (writeReg r v s).replies = s.replies := by
  cases r <;> simp [writeReg]
@[simp] theorem writeRegister_replies (r : Reg) (v : Word) (s : State) : (writeRegister r v s).replies = s.replies := by
  rcases writeRegister_cases r v s with ⟨_, _, h⟩ | ⟨_, h⟩ <;> simp [h]
@[simp] theorem writeReg_draws (r : Reg) (v : Word) (s : State) : (writeReg r v s).draws = s.draws := by
  cases r <;> simp [writeReg]
@[simp] theorem writeRegister_draws (r : Reg) (v : Word) (s : State) : (writeRegister r v s).draws = s.draws := by
  rcases writeRegister_cases r v s with ⟨_, _, h⟩ | ⟨_, h⟩ <;> simp [h]
@[simp] theorem writeReg_resets (r : Reg) (v : Word) (s : State) : (writeReg r v s).resets = s.resets := by
  cases r <;> simp [writeReg]
@[simp] theorem writeRegister_resets (r : Reg) (v : Word) (s : State) : (writeRegister r v s).resets = s.resets := by
  rcases writeRegister_cases r v s with ⟨_, _, h⟩ | ⟨_, h⟩ <;> simp [h]

/-- A write to any register but CMD keeps PENDING, and every one keeps it while BUSY = 1 (R149, R151). -/
theorem writeRegister_pending_of_busy {r : Reg} {v : Word} {s : State} (h : s.busy = true) :
    (writeRegister r v s).pending = s.pending := by
  rcases writeRegister_cases r v s with ⟨_, _, h'⟩ | ⟨hb, h'⟩
  · simp [h']
  · rw [h']
    cases r <;> simp_all [writeReg, Reg.refusedWhileBusy]

/-- Only a write to a DBUF word changes DBUF, and it keeps the canonical form (R35, R55). -/
theorem writeRegister_dbuf_wf {r : Reg} {v : Word} {s : State} (h : Memory.wf s.dbuf = true) :
    Memory.wf (writeRegister r v s).dbuf = true := by
  rcases writeRegister_cases r v s with ⟨_, _, h'⟩ | ⟨_, h'⟩
  · simpa [h'] using h
  · rw [h']
    cases r <;> first
      | exact dbufWriteWord_wf _ v h
      | simpa [writeReg] using h

/-- The offsets that name CMD (R18). -/
theorem ofOffset_cmd : Reg.ofOffset 0x0004 = .cmd := rfl
/-- The offset that names STATUS (R18). -/
theorem ofOffset_status : Reg.ofOffset 0x0008 = .status := rfl

/-- What holds of the 2048 aligned offsets holds of every aligned offset of the aperture (R18). -/
theorem forall_aligned_offset {P : Nat → Prop} (h : ∀ n : Fin 2048, P (4 * n.val)) {off : Nat} (h4 : off % 4 = 0)
    (hl : off < 0x2000) : P off := by
  obtain ⟨n, rfl⟩ : ∃ n, off = 4 * n := ⟨off / 4, by omega⟩
  exact h ⟨n, by omega⟩

/-- A write that is not refused, to a register that is not STATUS or IRQ_EN and not refused while BUSY, changes
nothing (R38, R39). -/
theorem writeReg_ignored {r : Reg} {v : Word} {s : State} (h : r.refusedWhileBusy = false) (hs : r ≠ .status)
    (hi : r ≠ .irqEn) : writeReg r v s = s := by
  cases r <;> simp_all [writeReg, Reg.refusedWhileBusy]

end Sys2Proof.Machine
end

