-- ==== Sys2Proof/Machine/HostProgram.lean ====
section
/-! DEFINITION. The host's side: the bus operations and pseudo-instructions of 30_encoding.md R85 and R86 as lists
of inputs, and the host procedures of 44_output.md R143 to R148. A host polls an unspecified number of times
before it sees BUSY = 0 (U3, U7): that number is an argument, `polls`. -/

namespace Sys2Proof.Machine

/-- `WR off, v` (R85): a 32-bit bus write. -/
def hostWr (off : Nat) (v : Word) : Input := .write 32 off v

/-- `RD off -> name` (R85): a 32-bit bus read; its result is the next entry of `replies`. -/
def hostRd (off : Nat) : Input := .read 32 off

/-- `WAIT` (R86): `polls` reads of STATUS that see BUSY = 1, the engine's step, and the read that sees BUSY = 0.
Where no command is pending and `polls` is 0 it is one read. -/
def hostWait (polls : Nat) : List Input :=
  List.replicate polls (hostRd 0x0008) ++ [.engineTurn, hostRd 0x0008]

/-- `EXEC c` (R86). -/
def hostExec (polls : Nat) (i : Instr) : List Input := hostWr 0x0004 (encode i) :: hostWait polls

/-- `CLRST` (R86, R160): clear DONE and ERR. -/
def hostClrst : List Input := [hostWr 0x0008 0x00000006]

/-- `WRBUF off, B` (R86): bytes past the end of B are written as 0; `off` is a multiple of 4. -/
def hostWrbuf (off : Nat) (bs : List Byte) : List Input :=
  (List.range ((bs.length + 3) / 4)).map fun j =>
    hostWr (0x1000 + off + 4 * j)
      (le32 (bs.getD (4 * j) 0) (bs.getD (4 * j + 1) 0) (bs.getD (4 * j + 2) 0) (bs.getD (4 * j + 3) 0))

/-- "load the 32-byte key as 8 little-endian words" (R24, R146). A key of any other length cannot be loaded
(R146, R155): rejecting it is the host's. -/
def keyOfBytes (k : List Byte) : Option Cv :=
  if k.length = 32 then
    some (Vector.ofFn fun i : Fin 8 =>
      le32 (k.getD (4 * i.val) 0) (k.getD (4 * i.val + 1) 0) (k.getD (4 * i.val + 2) 0) (k.getD (4 * i.val + 3) 0))
  else none

/-- The eight writes of `LDKEY` (R86), the key given as words. -/
def hostLdkey (k : Cv) : List Input := (List.finRange 8).map fun i => hostWr (0x0020 + 4 * i.val) k[i]

/-- `LDLANE k, cv, m, ctr, blen, fl` (R86). -/
def hostLdlane (k : Fin 4) (o : Operands) : List Input :=
  let base := 0x0200 + 0x80 * k.val
  ((List.finRange 8).map fun i => hostWr (base + 4 * i.val) o.cv[i])
    ++ ((List.finRange 16).map fun i => hostWr (base + 0x20 + 4 * i.val) o.m[i])
    ++ [hostWr (base + 0x60) (ctrLow o.counter), hostWr (base + 0x64) (ctrHigh o.counter),
        hostWr (base + 0x68) o.blockLen, hostWr (base + 0x6C) (o.flags.setWidth 32)]

/-- The bus operations of `RDOUT n -> D` (R86): one XOF and sixteen reads for each 64 bytes. -/
def hostRdout (polls n : Nat) : List Input :=
  (List.replicate ((n + 63) / 64)
    (hostExec polls .xof ++ (List.finRange 16).map fun i => hostRd (0x0100 + 4 * i.val))).flatten

/-- The words of XOUT among what the reads of `blocks` rounds of `RDOUT` returned. -/
def rdoutWords (polls : Nat) : Nat → List Word → List Word
  | 0, _ => []
  | blocks + 1, replies =>
    let block := replies.drop (polls + 1)
    block.take 16 ++ rdoutWords polls blocks (block.drop 16)

/-- The result D of `RDOUT n -> D` (R86), from what its own reads returned: cut to n bytes. -/
def rdoutResult (polls n : Nat) (replies : List Word) : List Byte :=
  (bytesOf (rdoutWords polls ((n + 63) / 64) replies)).take n

/-- The slices of at most 4096 bytes a host feeds one UPDATE each (R143); `fuel` bounds their number. DESIGN CHOICE
(log 19): R143 does not say how long each slice is; this host cuts full 4096-byte slices, only the last one shorter, and
none of an empty input. -/
def inputSlices : Nat → List Byte → List (List Byte)
  | 0, _ => []
  | fuel + 1, bs => if bs.isEmpty then [] else bs.take dbufBytes :: inputSlices fuel (bs.drop dbufBytes)

/-- Step 2 of R143: `WRBUF 0, slice` then `EXEC UPDATE 0, len(slice)` for each slice, the slices those of
`inputSlices` (log 19). -/
def hostFeed (polls : Nat) (x : List Byte) : List Input :=
  (inputSlices x.length x).flatMap fun slice =>
    hostWrbuf 0 slice ++ hostExec polls (.update 0 (BitVec.ofNat 13 slice.length))

/-- `digest(X, n)` (R143) with the key words and mode of R145 (plain), R146 (keyed) or a stage of R147. -/
def hostDigest (polls : Nat) (key : Cv) (mode : DomainFlags) (x : List Byte) (n : Nat) : List Input :=
  hostLdkey key ++ [hostWr 0x0010 (mode.setWidth 32)] ++ hostExec polls .init ++ hostFeed polls x
    ++ hostExec polls .finalize ++ hostRdout polls n

/-- Plain hash (R145). DESIGN CHOICE (log 19): this host writes KEY, then MODE, also where they hold the plain values
already, as after reset. -/
def hostPlainHash (polls : Nat) (x : List Byte) (n : Nat) : List Input := hostDigest polls iv 0x00 x n

/-- Keyed hash with a 32-byte key (R146). -/
def hostKeyedHash (polls : Nat) (k : List Byte) (x : List Byte) (n : Nat) : Option (List Input) :=
  (keyOfBytes k).map fun key => hostDigest polls key keyedHash x n

/-- Derive-key, context stage (R147.1): a 32-byte hash of the context, with ROOT (R148). -/
def hostDeriveContext (polls : Nat) (context : List Byte) : List Input :=
  hostDigest polls iv deriveKeyContext context 32

/-- Derive-key, material stage (R147.2, R147.3): the key words are XOUT[0..7] of the context stage. -/
def hostDeriveMaterial (polls : Nat) (xout : Block) (x : List Byte) (n : Nat) : List Input :=
  hostDigest polls (first8 xout) deriveKeyMaterial x n

/-- The output length a host grants (R144, 93_implementation_defined.md S5): HOST_OUTPUT_CAP is the host's
parameter, by default none. DESIGN CHOICE (log 14): R144 and S5 let a host impose a cap and do not say what it then does
with a longer request; this host grants the first `cap` bytes where another might refuse the request. -/
def grantedLength (hostOutputCap : Option Nat) (n : Nat) : Nat :=
  match hostOutputCap with
  | none => n
  | some cap => min cap n

end Sys2Proof.Machine
end

