-- ==== Sys2Proof/Tests/Slice0.lean ====
section
/-! SUPPORT. The model's own tests, every expected value written out from spec/ (the file or table is named), and one
witness for the hypotheses of each statement of Certificates/Slice0/Obligations.lean (for each clause that has its
own). -/

namespace Sys2Proof.Tests

open Sys2Proof.Machine

/-! ### Helpers -/

/-- The reset state with `i` pending: BUSY = 1. -/
def busyWith (i : Instr) : State := { State.reset with pending := some i }

/-- The reset state with the list `l` of what happens next. -/
def withInputs (l : List Input) : State := { State.reset with inputs := l }

/-- Chunk `c` with `blocks` compressed blocks and `len` bytes in the buffer. -/
def atPosition (c : Counter) (blocks : Fin 16) (len : Fin 65) : State :=
  { State.reset with
    hash := { State.reset.hash with cs := { State.reset.hash.cs with ctr := c, blocks := blocks, bufLen := len } } }

/-- STATUS after one bus write. -/
def statusAfter (width off : Nat) (v : Word) (s : State) : Option Word :=
  match busWrite width off v s with
  | .next t => some (readReg .status t)
  | .fault _ => none
  | .refused _ => none

/-- The command PENDING holds after one bus write. -/
def pendingAfter (width off : Nat) (v : Word) (s : State) : Option Instr :=
  match busWrite width off v s with
  | .next t => t.pending
  | .fault _ => none
  | .refused _ => none

/-- A register after one command. -/
def regAfter (r : Reg) (i : Instr) (s : State) : Option Word :=
  match exec i s with
  | .next t => some (readReg r t)
  | .fault _ => none
  | .refused _ => none

/-- The lane bank that holds a tuple. -/
def laneOfOperands (o : Operands) : LaneBank where
  cv := o.cv
  m := o.m
  ctrLo := ctrLow o.counter
  ctrHi := ctrHigh o.counter
  blockLen := o.blockLen
  flags := o.flags

/-! ### WellFormed: R78 -/

theorem test_update_range_ill_formed : (Instr.update 4095 2).wellFormed = false := by decide
theorem test_update_length_ill_formed : (Instr.update 0 4097).wellFormed = false := by decide
theorem test_update_to_the_end_well_formed : (Instr.update 4000 96).wellFormed = true := by decide

/-! ### Decoding: the bits written out from R74, most significant first: RSV, LEN, OFF, OP -/

theorem test_decode_init : decodeWord 0b000_0000000000000_000000000000_0001 = .ok .init := by rfl
theorem test_decode_update :
    decodeWord 0b000_0000001000000_111111000000_0010 = .ok (.update 4032 64) := by rfl
theorem test_decode_update_100_924 :
    decodeWord 0b000_0001110011100_000001100100_0010 = .ok (.update 100 924) := by rfl
theorem test_decode_finalize : decodeWord 0b000_0000000000000_000000000000_0011 = .ok .finalize := by rfl
theorem test_decode_xof : decodeWord 0b000_0000000000000_000000000000_0100 = .ok .xof := by rfl
theorem test_decode_compress : decodeWord 0b000_0000000000000_000000000000_0101 = .ok .compress := by rfl
theorem test_decode_compress4 : decodeWord 0b000_0000000000000_000000000000_0110 = .ok .compress4 := by rfl
theorem test_decode_opcode_zero : decodeWord 0 = .error .reservedOpcode := by rfl
theorem test_decode_opcode_seven : decodeWord 7 = .error .reservedOpcode := by rfl
theorem test_decode_rsv : decodeWord 0x20000002 = .error .reservedBits := by rfl
theorem test_decode_stray_len : decodeWord 0x00010001 = .error .strayOperand := by rfl
theorem test_decode_stray_off : decodeWord 0x00000013 = .error .strayOperand := by rfl

/-- R84's two examples and the table of 95_test_vectors.md 2.9. -/
theorem test_encode_examples :
    encode (.update 0 1024) = 0x04000002 ∧ encode (.update 4032 64) = 0x0040FC02 ∧
      encode (.update 0 4096) = 0x10000002 ∧ encode (.update 100 924) = 0x039C0642 := by decide

/-- R53: the least significant byte of a command word first. -/
theorem test_decode_bytes : decodeBytes [0x02, 0xFC, 0x40, 0x00, 0xAA] = some (.ok (.update 4032 64), [0xAA]) := by
  rfl

/-- R84: hexadecimal operands. -/
theorem test_assemble_hex :
    assemble ['U', 'P', 'D', 'A', 'T', 'E', ' ', '0', 'x', 'F', 'C', '0', ',', ' ', '0', 'x', '4', '0'] =
      some (.update 4032 64) := by decide

/-- The host's question: does the very next step run the word as the first command after reset? -/
theorem test_withFetchWord_runs_finalize :
    step (State.reset.withFetchWord 32 0x00000003) = exec .finalize (busyWith .finalize) := by rfl

/-! ### The compression function: 95_test_vectors.md 1.3, 2.1, 2.2 -/

/-- 1.3: both byte patterns on 0x01234567. -/
theorem test_rotations :
    rotr16Shuffled 0x01234567 = 0x45670123 ∧ rotr8Shuffled 0x01234567 = 0x67012345 ∧
      rotr32 0x01234567 16 = 0x45670123 ∧ rotr32 0x01234567 8 = 0x67012345 := by decide

/-- 2.1: one G on `v[i] = 0x01020304 * (i + 1)`. -/
theorem test_mixG :
    mixG #v[0x01020304, 0x02040608, 0x0306090C, 0x04080C10, 0x050A0F14, 0x060C1218, 0x070E151C, 0x08101820,
            0x09121B24, 0x0A141E28, 0x0B16212C, 0x0C182430, 0x0D1A2734, 0x0E1C2A38, 0x0F1E2D3C, 0x10203040]
      0 4 8 12 0x11111111 0x22222222 =
    #v[0xDD2FC79E, 0x02040608, 0x0306090C, 0x04080C10, 0xB609F1D4, 0x060C1218, 0x070E151C, 0x08101820,
       0xA7086808, 0x0A141E28, 0x0B16212C, 0x0C182430, 0x99D932DD, 0x0E1C2A38, 0x0F1E2D3C, 0x10203040] := by
  decide

/-- The operands of CF-1. -/
def cf1 : Operands := { cv := iv, m := Vector.replicate 16 0, counter := 0, blockLen := 0, flags := 0x0B }
/-- The operands of CF-3. -/
def cf3 : Operands where
  cv := iv
  m := #v[0, 1, 2, 3, 4, 5, 6, 7, 8, 9, 10, 11, 12, 13, 14, 15]
  counter := 0
  blockLen := 64
  flags := 0
/-- The operands of CF-4. -/
def cf4 : Operands :=
  { cv := iv, m := Vector.replicate 16 0, counter := 0x0000000100000000, blockLen := 64, flags := 0xFF }
/-- The operands of CF-5. -/
def cf5 : Operands where
  cv := Vector.replicate 8 0xFFFFFFFF
  m := Vector.replicate 16 0xFFFFFFFF
  counter := 0xFFFFFFFFFFFFFFFF
  blockLen := 0xFFFFFFFF
  flags := 0x04

/-- The round trace of CF-1, after round 0. -/
theorem test_round_0 :
    workingState cf1 1 =
      #v[0x775146DC, 0x91D99567, 0x8D7EB8E2, 0xBA28BE49, 0xBF7B53FF, 0xE7661B5D, 0x7F835244, 0x24BF2E76,
         0xE15F5DCD, 0x1AEB5F15, 0x809EAE90, 0xF32C027F, 0xE0253D07, 0x5D9F85CC, 0xAA5E2248, 0x180DAFF3] := by
  decide +kernel

/-- CF-5: every addition wraps. -/
theorem test_compress_cf5 :
    compress cf5 =
      #v[0x1C550391, 0xCDE18164, 0x50B0CA58, 0xCA1A8759, 0x0B05183F, 0xB7F9A413, 0xE9256595, 0x3DFE6A69,
         0xAC97E25B, 0xD49E7194, 0x459A17F7, 0x82497767, 0x6A07ACB2, 0x6D75CA1B, 0x7F3E7F90, 0x93998E8E] := by
  decide +kernel

/-- CF-4 in the permuting form and on the transposed datapath: words 0 and 15. -/
theorem test_alternatives_cf4 :
    (compressPermuted cf4)[0] = 0xB96DDC22 ∧ (compressPermuted cf4)[15] = 0x2A926F9E ∧
      (compress4Transposed (Vector.replicate 4 cf4))[3][0] = 0xB96DDC22 := by decide +kernel

/-! ### The commands, one step each -/

/-- COMPRESS on CF-3, last word of RES[0] (2.2). -/
theorem test_compress_command :
    regAfter (.res 0 15) .compress { State.reset with lanes := Vector.replicate 4 (laneOfOperands cf3) } =
      some 0xD849C813 := by decide +kernel

/-- COMPRESS leaves RES[1] as it was (R101). -/
theorem test_compress_other_bank :
    regAfter (.res 1 0) .compress { State.reset with res := Vector.replicate 4 (Vector.replicate 16 7) } =
      some 7 := by decide +kernel

/-- COMPRESS4 with CF-4 in bank 3 (2.3). -/
theorem test_compress4_command :
    regAfter (.res 3 7) .compress4 { State.reset with lanes := Vector.replicate 4 (laneOfOperands cf4) } =
      some 0xCF38E892 := by decide +kernel

/-- COMPRESS4 leaves RES[k][8..15] as it was (2.3). -/
theorem test_compress4_upper_half :
    regAfter (.res 3 8) .compress4 { State.reset with res := Vector.replicate 4 (Vector.replicate 16 7) } =
      some 7 := by decide +kernel

/-- INIT: KEY is latched as H_KEY, XOF_CTR and SEED_VALID are cleared (R116). -/
theorem test_init_command :
    (match exec .init { State.reset with
        key := Vector.replicate 8 0x74616877, mode := 0x10, seedValid := true, xofCtr := 5 } with
      | .next t => decide (t.hash.hKey[7] = 0x74616877 ∧ t.hash.hMode = 0x10 ∧ t.seedValid = false ∧ t.xofCtr = 0 ∧
          t.hash.cs.cv[0] = 0x74616877)
      | .fault _ => false
      | .refused _ => false) = true := by decide

/-- UPDATE 0, 1 from reset: CHUNK_LEN = 1, buf[0] the byte (P2). -/
theorem test_update_one_byte :
    regAfter .chunkLen (.update 0 1) { State.reset with dbuf := [(0, 0x5A)] } = some 1 := by decide

/-- Table 2.4, L = 1025: the byte after a full chunk emits it (CHUNK_CTR 1, CHUNK_LEN 1, STACK_DEPTH 1). -/
theorem test_update_emits_full_chunk :
    regAfter .chunkCtrLo (.update 7 1) { atPosition 0 15 64 with dbuf := [(7, 1)] } = some 1 ∧
      regAfter .chunkLen (.update 7 1) { atPosition 0 15 64 with dbuf := [(7, 1)] } = some 1 ∧
      regAfter .stackDepth (.update 7 1) { atPosition 0 15 64 with dbuf := [(7, 1)] } = some 1 := by decide +kernel

/-- Table 2.4, L = 64 and L = 65: the block is compressed only by the byte that follows. -/
theorem test_lazy_block :
    (absorb State.reset.hash (List.replicate 64 1)).cs.blocks = 0 ∧
      (absorb State.reset.hash (List.replicate 65 1)).cs.blocks = 1 ∧
      (absorb State.reset.hash (List.replicate 65 1)).cs.bufLen = 1 := by decide +kernel

/-- FINALIZE from reset: SEED_FLAGS = 0x03 (R131). -/
theorem test_finalize_empty : regAfter .seedFlags .finalize State.reset = some 0x03 := by decide

/-- FINALIZE with one stack entry: a parent tuple, left the entry (R131). -/
theorem test_finalize_one_entry :
    (match exec .finalize { State.reset with
        hash := { State.reset.hash with stack := [Vector.replicate 8 9] } } with
      | .next t => decide (t.seed.m[0] = 9 ∧ t.seed.m[7] = 9 ∧ t.seed.flags = 0x04 ∧ t.seed.blockLen = 64)
      | .fault _ => false
      | .refused _ => false) = true := by decide +kernel

/-- XOF on the empty input's seed at counter 2 (table 2.8). -/
theorem test_xof_block_2 :
    regAfter (.xout 0) .xof { State.reset with
      seed := { cv := iv, m := Vector.replicate 16 0, blockLen := 0, flags := 0x03 }, seedValid := true, xofCtr := 2 } =
      some 0x304DE1CC := by decide +kernel

/-- XOF at counter 2^64 - 1 wraps XOF_CTR to 0 (table 2.8). -/
theorem test_xof_wraps :
    regAfter .xofCtrHi .xof { State.reset with xofCtr := 0xFFFFFFFFFFFFFFFF } = some 0 := by decide +kernel

/-! ### Errors: 95_test_vectors.md 2.9, P10 -/

theorem test_err_no_seed : statusAfter 32 0x0004 0x00000004 State.reset = some 0x00000304 := by decide
theorem test_err_illegal : statusAfter 32 0x0004 0x00000007 State.reset = some 0x00000104 := by decide
theorem test_err_rsv : statusAfter 32 0x0004 0x20000002 State.reset = some 0x00000104 := by decide
theorem test_err_range : statusAfter 32 0x0004 0x0002FFF2 State.reset = some 0x00000204 := by decide
theorem test_err_first_kept :
    statusAfter 32 0x0004 0x00C8FA02 { State.reset with err := some .noSeed } = some 0x00000304 := by decide
theorem test_err_overflow :
    statusAfter 32 0x0004 0x00190002 (atPosition 0xFFFFFFFFFFFFFFFF 15 40) = some 0x00000404 := by decide +kernel
theorem test_total_exactly_2_74_accepted :
    pendingAfter 32 0x0004 0x00180002 (atPosition 0xFFFFFFFFFFFFFFFF 15 40) = some (.update 0 24) := by decide +kernel
theorem test_err_busy : statusAfter 32 0x1000 0 (busyWith (.update 0 0)) = some 0x00000505 := by decide
theorem test_status_clear_while_busy :
    statusAfter 32 0x0008 0x00000004 { busyWith .xof with err := some .busy } = some 0x00000001 := by decide
theorem test_err_misaligned : statusAfter 32 0x1002 0x12345678 State.reset = some 0x00000604 := by decide
theorem test_err_byte_read :
    (match busRead 8 0x0000 State.reset with
      | .next t => decide (t.replies = [0] ∧ readReg .status t = 0x00000604)
      | .fault _ => false
      | .refused _ => false) = true := by decide
theorem test_write_id_ignored : statusAfter 32 0x0000 0x12345678 State.reset = some 0 := by decide
theorem test_irq_on_error : (recordError .noSeed { State.reset with irqEn := 2 }).irq = true := by decide
theorem test_register_offsets :
    Reg.ofOffset 0x0044 = .xofCtrHi ∧ Reg.ofOffset 0x03EC = .laneFlags 3 ∧ Reg.ofOffset 0x03F0 = .reserved ∧
      Reg.ofOffset 0x04FC = .res 3 15 ∧ Reg.ofOffset 0x1FFC = .dbuf 1023 := by decide

/-- R183: turns of the engine and a reset that still wait are no bus operations; a read that waits is one. -/
theorem test_run_over :
    RunOver (withInputs [.engineTurn, .reset]) ∧ ¬ RunOver (withInputs [.read 32 0x0008]) ∧
      ¬ RunOver (busyWith .xof) := by unfold RunOver; decide

/-- R183: ID is observed at offset 0 and KEY[7] at offset 0x3C, and there are 2048 offsets. -/
theorem test_observation :
    (observation { withInputs [.engineTurn] with dbuf := [] }).hidden = State.reset.hash ∧
      readReg (Reg.ofOffset (4 * 15)) State.reset = 0x5BE0CD19 ∧
      (observation State.reset).registers.length = 2048 := ⟨rfl, by decide, by simp [observation]⟩

/-! ### Witnesses: the hypotheses of each statement can be met -/

theorem witness_EncodeOfDecode : ∃ i, decodeWord 0x0040FC02 = .ok i := ⟨.update 4032 64, rfl⟩

theorem witness_MatchMaskTable_illegal :
    ((0x00000010 : Word) &&& 0xFFFFFFFF ≠ 0x00000001 ∧ (0x00000010 : Word) &&& 0xE000000F ≠ 0x00000002 ∧
      (0x00000010 : Word) &&& 0xFFFFFFFF ≠ 0x00000003 ∧ (0x00000010 : Word) &&& 0xFFFFFFFF ≠ 0x00000004 ∧
      (0x00000010 : Word) &&& 0xFFFFFFFF ≠ 0x00000005 ∧ (0x00000010 : Word) &&& 0xFFFFFFFF ≠ 0x00000006) ∧
      State.reset.pending = none := by decide
theorem witness_MatchMaskTable_range :
    (0x0002FFF2 : Word) &&& 0xE000000F = 0x00000002 ∧
      4096 < ((0x0002FFF2 : Word).extractLsb' 4 12).toNat + ((0x0002FFF2 : Word).extractLsb' 16 13).toNat := by decide

theorem witness_CmdWriteFollowsDecodeOrder_busy : (busyWith .xof).pending ≠ none := by decide
theorem witness_CmdWriteFollowsDecodeOrder_opcode :
    ¬ (1 ≤ ((0x00000007 : Word).extractLsb' 0 4).toNat ∧ ((0x00000007 : Word).extractLsb' 0 4).toNat ≤ 6) := by decide
theorem witness_CmdWriteFollowsDecodeOrder_reserved : ((0x20000006 : Word).extractLsb' 29 3).toNat ≠ 0 := by decide
theorem witness_CmdWriteFollowsDecodeOrder_stray :
    ((0x00000016 : Word).extractLsb' 0 4).toNat ≠ 2 ∧ ((0x00000016 : Word).extractLsb' 4 12).toNat ≠ 0 := by decide
theorem witness_CmdWriteFollowsDecodeOrder_range :
    ((0x10010002 : Word).extractLsb' 4 12).toNat + ((0x10010002 : Word).extractLsb' 16 13).toNat > 4096 := by decide
theorem witness_CmdWriteFollowsDecodeOrder_noSeed :
    ((0x00000004 : Word).extractLsb' 0 4).toNat = 4 ∧ State.reset.seedValid = false := by decide
theorem witness_CmdWriteFollowsDecodeOrder_overflow :
    (let s := atPosition 0xFFFFFFFFFFFFFFFF 15 64
     s.hash.cs.ctr.toNat * 1024 + (s.hash.cs.blocks.val * 64 + s.hash.cs.bufLen.val) +
      ((0x00010002 : Word).extractLsb' 16 13).toNat > 2 ^ 74) ∧
    (atPosition 0xFFFFFFFFFFFFFFFF 15 64).pending = none := by decide +kernel
theorem witness_CmdWriteFollowsDecodeOrder_accepted :
    pendingAfter 32 0x0004 0x0060FA02 State.reset = some (.update 4000 96) := by decide

theorem witness_StepRunsPendingCommand_empty_inputs :
    (busyWith .compress).pending = some .compress ∧ (busyWith .compress).inputs = [] := by decide
theorem witness_StepRunsPendingCommand_turn :
    ({ busyWith .compress with inputs := [.engineTurn] } : State).inputs = .engineTurn :: [] := by decide
theorem witness_StepRunsPendingCommand_word :
    decodeTableWord 32 0x10000002 = some (.update 0 4096) ∧ (Instr.update 0 4096).wellFormed = true := by decide
theorem witness_StepRunsPendingCommand_idle : State.reset.pending = none ∧ State.reset.inputs = [] := by decide
theorem witness_StepRunsPendingCommand_idle_turn :
    (withInputs [.engineTurn]).pending = none ∧ (withInputs [.engineTurn]).inputs = .engineTurn :: [] := by decide

theorem witness_AcceptedCmdWriteRunsOnTurn :
    (withInputs [.write 32 0x0004 (encode .init), .engineTurn]).pending = none ∧
      (withInputs [.write 32 0x0004 (encode .init), .engineTurn]).inputs =
        .write 32 0x0004 (encode .init) :: .engineTurn :: [] ∧
      acceptError .init (withInputs [.write 32 0x0004 (encode .init), .engineTurn]) = none := by decide

theorem witness_AcceptedCommandEventuallyLeavesPending_reset :
    ∃ (i : Instr) (s : State), s.pending = some i ∧ s.inputs.length = 3 ∧
      ∀ e ∈ s.inputs, match e with
        | .write _ off _ => off < 8192
        | .read _ off => off < 8192
        | .engineTurn => True
        | .reset => True :=
  ⟨.xof, { busyWith .xof with inputs := [.write 8 8191 0, .read 32 0, .reset] }, rfl, rfl, by simp⟩
theorem witness_AcceptedCommandEventuallyLeavesPending_turn :
    ∃ (i : Instr) (s : State), s.pending = some i ∧ s.inputs.length = 2 ∧
      ∀ e ∈ s.inputs, match e with
        | .write _ off _ => off < 8192
        | .read _ off => off < 8192
        | .engineTurn => True
        | .reset => True :=
  ⟨.init, { busyWith .init with inputs := [.write 32 0x1FFC 0, .engineTurn] }, rfl, rfl, by simp⟩
theorem witness_AcceptedCommandEventuallyLeavesPending_no_input :
    (busyWith .init).pending = some .init ∧ (busyWith .init).inputs = [] := by decide

theorem witness_DoneIsSticky_exec : ∃ t, exec .xof State.reset = .next t := ⟨_, rfl⟩
theorem witness_DoneIsSticky_cleared_by_write :
    ∃ s t : State, step s = .next t ∧ s.done = true ∧ t.done = false ∧ s.inputs ≠ [.reset] :=
  ⟨{ withInputs [.write 32 0x0008 2] with done := true }, _, rfl, rfl, rfl, by decide⟩
theorem witness_DoneIsSticky_cleared_by_reset :
    ∃ s t : State, step s = .next t ∧ s.done = true ∧ t.done = false ∧ s.inputs = [.reset] :=
  ⟨{ withInputs [.reset] with done := true }, _, rfl, rfl, rfl, rfl⟩
theorem witness_DoneIsSticky_bit : (0x00000002 : Word).getLsbD 1 = true := by decide

theorem witness_FirstErrorIsKept_none : State.reset.err = none := rfl
theorem witness_FirstErrorIsKept_some : ({ State.reset with err := some .bus } : State).err = some .bus := rfl
theorem witness_FirstErrorIsKept_cleared_by_write :
    ∃ s t : State, step s = .next t ∧ s.err = some .range ∧ t.err ≠ some .range :=
  ⟨{ withInputs [.write 32 0x0008 4] with err := some .range }, _, rfl, rfl, by decide⟩
theorem witness_FirstErrorIsKept_cleared_by_reset :
    ∃ s t : State, step s = .next t ∧ s.err = some .range ∧ t.err ≠ some .range ∧ s.inputs = [.reset] :=
  ⟨{ withInputs [.reset] with err := some .range }, _, rfl, rfl, by decide, rfl⟩
theorem witness_FirstErrorIsKept_bit : (0x00000004 : Word).getLsbD 2 = true := by decide
theorem witness_FirstErrorIsKept_exec : ∃ t, exec .compress State.reset = .next t := ⟨_, rfl⟩

theorem witness_BusyWriteTable_aligned :
    (busyWith .xof).pending ≠ none ∧ 0x1FFC < 0x2000 ∧ 0x1FFC % 4 = 0 := by decide
theorem witness_BusyWriteTable_unaligned : (busyWith .xof).pending ≠ none ∧ 0x1FFF < 0x2000 ∧ 0x1FFF % 4 ≠ 0 := by
  decide

theorem witness_BadAccessIsBusError_width : 0 < 0x2000 ∧ 16 ≠ 32 := by decide
theorem witness_BadAccessIsBusError_offset : 8191 < 0x2000 ∧ 8191 % 4 ≠ 0 := by decide

theorem witness_ReadOnlyWritesIgnored_map :
    (0x0054 % 4 = 0 ∧ 0x0048 ≤ 0x0054 ∧ 0x0054 < 0x0058) ∧ (0x006C % 4 = 0 ∧ 0x006C < 0x0070) ∧
      (0x009C % 4 = 0 ∧ 0x009C < 0x00A0) ∧ (0x013C % 4 = 0 ∧ 0x013C < 0x0140) ∧ 0x04FC % 4 = 0 ∧ 0x04FC < 0x0500 := by
  decide
theorem witness_ReadOnlyWritesIgnored_bits :
    (0xFFFFFFF9 : Word).getLsbD 1 = false ∧ (0xFFFFFFF9 : Word).getLsbD 2 = false := by decide
theorem witness_ReadOnlyWritesIgnored_status :
    ∃ t, busWrite 32 0x0008 0xFFFFFFFB (busyWith .xof) = .next t ∧ (0xFFFFFFFB : Word).getLsbD 2 = false :=
  ⟨_, rfl, by decide⟩

theorem witness_ReservedReadsZero :
    (0x0014 % 4 = 0 ∧ 0x0014 < 0x0020) ∧ (0x0064 % 4 = 0 ∧ 0x0064 < 0x0068) ∧ (0x007C % 4 = 0 ∧ 0x007C < 0x0080) ∧
      (0x00BC % 4 = 0 ∧ 0x00BC < 0x00C0) ∧ (0x01FC % 4 = 0 ∧ 0x01FC < 0x0200) ∧
      (0x03FC % 4 = 0 ∧ 0x03FC < 0x0400 ∧ 0x70 ≤ (0x03FC - 0x0200) % 0x80) ∧ 0x0FFC % 4 = 0 ∧ 0x0FFC < 0x1000 := by
  decide

theorem witness_RegisterMapIsExact_offset : (Reg.dbuf 1023).offset = some 0x1FFC := by decide
theorem witness_RegisterMapIsExact_named : 0x03EC % 4 = 0 ∧ 0x03EC < 0x2000 ∧ Reg.ofOffset 0x03EC ≠ .reserved := by
  decide

theorem witness_WriteReachesOneRegister_irqEn : State.reset.pending = none ∧ Reg.irqEn = .irqEn := by decide
theorem witness_WriteReachesOneRegister_lane :
    State.reset.pending = none ∧ Reg.laneFlags 3 ≠ .cmd ∧ (Reg.laneFlags 3).refusedWhileBusy = true := by decide

theorem witness_DbufWordIsFourBytes : 1023 < 1024 ∧ State.reset.pending = none := by decide

theorem witness_IdReadsConstant : ∃ t, exec .init State.reset = .next t := ⟨_, rfl⟩

theorem witness_ReadsHaveNoSideEffect_read : ∃ t, 0x1FFC % 4 = 0 ∧ busRead 32 0x1FFC State.reset = .next t :=
  ⟨_, rfl, rfl⟩
theorem witness_ReadsHaveNoSideEffect_idle : 0x1FFC % 4 = 0 ∧ 0x1FFC < 0x2000 ∧ State.reset.pending = none := by
  decide

theorem witness_BusyReadsAreFreeValues_engine_written :
    (busyWith .xof).pending ≠ none ∧ 0x04FC % 4 = 0 ∧ 0x0400 ≤ 0x04FC ∧ 0x04FC < 0x0500 := by decide
theorem witness_BusyReadsAreFreeValues_true :
    (Reg.laneBlen 3).offset = some 0x03E8 ∧ 0x0200 ≤ 0x03E8 ∧ 0x03E8 < 0x0400 := by decide
theorem witness_BusyReadsAreFreeValues_idle : (Reg.xout 15).offset = some 0x013C ∧ State.reset.pending = none := by
  decide

theorem witness_IrqLevelFollowsStatus_rises_on_completion :
    ∃ s t : State, step s = .next t ∧ s.irq = false ∧ t.irq = true ∧ s.done = false ∧ t.done = true :=
  ⟨{ busyWith .compress with irqEn := 1 }, _, rfl, rfl, rfl, rfl, rfl⟩
theorem witness_IrqLevelFollowsStatus_rises_on_error :
    ∃ s t : State, step s = .next t ∧ s.irq = false ∧ t.irq = true ∧ s.err = none ∧ t.err ≠ none :=
  ⟨{ withInputs [.write 32 0x0004 0] with irqEn := 2 }, _, rfl, rfl, by decide, rfl, by decide⟩
theorem witness_IrqLevelFollowsStatus_rises_on_enable :
    ∃ s t : State, step s = .next t ∧ s.irq = false ∧ t.irq = true ∧ s.done = true :=
  ⟨{ withInputs [.write 32 0x000C 1] with done := true }, _, rfl, rfl, by decide, rfl⟩
theorem witness_IrqLevelFollowsStatus_falls :
    ∃ s t : State, step s = .next t ∧ s.irq = true ∧ t.irq = false :=
  ⟨{ withInputs [.write 32 0x0008 2] with done := true, irqEn := 1 }, _, rfl, by decide, by decide⟩
theorem witness_IrqLevelFollowsStatus_falls_on_enable :
    ∃ s t : State, step s = .next t ∧ s.irq = true ∧ t.irq = false :=
  ⟨{ withInputs [.write 32 0x000C 2] with done := true, irqEn := 3 }, _, rfl, by decide, by decide⟩
theorem witness_IrqLevelFollowsStatus_falls_on_reset :
    ∃ s t : State, step s = .next t ∧ s.irq = true ∧ t.irq = false :=
  ⟨{ withInputs [.reset] with done := true, irqEn := 1 }, _, rfl, by decide, rfl⟩

theorem witness_OutsideApertureIsRefused : 8192 ≤ 0x2000 ∧ offsetOf 0x40000000 0x40002000 = none ∧ 8191 < 8192 := by
  decide

theorem witness_RunOverIsObservable_reset_waits : RunOver (withInputs [.reset]) ∧ 2047 < 2048 := by
  unfold RunOver; decide
theorem witness_RunOverIsObservable_no_reset :
    RunOver (withInputs [.engineTurn]) ∧ ∀ e ∈ (withInputs [.engineTurn]).inputs, e ≠ .reset := by
  unfold RunOver; decide

theorem witness_ResetRestoresTable_input : (withInputs [.reset]).inputs = .reset :: [] := rfl
theorem witness_ResetRestoresTable_run : ∃ u, exec .init (busyWith .init) = .next u := ⟨_, rfl⟩

theorem witness_ResetEqualsPlainInit : State.reset.key = iv ∧ State.reset.mode = 0 := by decide

theorem witness_MixStepWords :
    (3 : Fin 16) ≠ 4 ∧ (3 : Fin 16) ≠ 9 ∧ (3 : Fin 16) ≠ 14 ∧ (4 : Fin 16) ≠ 9 ∧ (4 : Fin 16) ≠ 14 ∧
      (9 : Fin 16) ≠ 14 := by decide

theorem witness_CallsWithinGroupCommute : List.Perm [(3 : Fin 4), 2, 1, 0] [0, 1, 2, 3] := by decide

theorem witness_RotationsAgree : 0 < 31 ∧ 31 < 32 ∧ 0 < 1 := by decide

theorem witness_LaneEqualsCompressOfItsTuple :
    (∃ t, exec .compress4 State.reset = .next t) ∧
      (∃ u, exec .compress { State.reset with lanes := State.reset.lanes.set 0 State.reset.lanes[(3 : Fin 4)] } =
        .next u) ∧
      (∃ u, exec .compress4 { State.reset with lanes := State.reset.lanes.set (3 : Fin 4) LaneBank.zero } = .next u) ∧
      (0 : Fin 4) ≠ 3 := ⟨⟨_, rfl⟩, ⟨_, rfl⟩, ⟨_, rfl⟩, by decide⟩

theorem witness_BlockBytesRoundTrip : (List.replicate 64 (1 : Byte)).length ≤ 64 := by decide

theorem witness_CompressResult_opcode : opField 0x00000015 = 5 ∧ opField 0x00000005 = 5 := by decide
theorem witness_CompressResult_corners : cf4.flags = 0xFF ∧ cf5.counter = 0xFFFFFFFFFFFFFFFF := by decide

theorem witness_Compress4Result_opcode : opField 0x80000006 = 6 ∧ opField 0x00000006 = 6 := by decide
theorem witness_Compress4Result_equal_banks : State.reset.lanes[(1 : Fin 4)] = State.reset.lanes[(2 : Fin 4)] := by
  decide

theorem witness_XofResult_opcode : opField 0x00010004 = 4 ∧ opField 0x00000004 = 4 := by decide
theorem witness_XofResult_update :
    ∃ u v, exec (.update 0 1) State.reset = .next u ∧ exec .xof u = .next v := ⟨_, _, rfl, rfl⟩
theorem witness_XofResult_wrap :
    ({ State.reset with xofCtr := 0xFFFFFFFFFFFFFFFF } : State).xofCtr = 0xFFFFFFFFFFFFFFFF := rfl

theorem witness_FinalizeResult_opcode : opField 0x00000013 = 3 ∧ opField 0x00000003 = 3 := by decide
theorem witness_FinalizeResult_empty_stack : State.reset.hash.stack = [] := rfl
theorem witness_FinalizeResult_one_entry :
    ({ State.reset with hash := { State.reset.hash with stack := [iv] } } : State).hash.stack = [iv] := rfl

theorem witness_InitResult_opcode : opField 0x00010001 = 1 ∧ opField 0x00000001 = 1 := by decide
theorem witness_InitResult_plain : State.reset.key = iv ∧ State.reset.mode = 0 := by decide

theorem witness_UpdateResult_opcode : opField 0x20000002 = 2 ∧ opField 0x10000002 = 2 := by decide
theorem witness_UpdateResult_whole_buffer : (0 : BitVec 12).toNat + (4096 : BitVec 13).toNat ≤ 4096 := by decide

/-- Two UPDATEs of one byte, DBUF written anew between them. -/
theorem witness_UpdateSplittingInvariance :
    ∃ (before after : Nat → State) (one u : State), 0 < 2 ∧
      (∀ k, k < 2 → exec (.update 0 1) (before k) = .next (after k)) ∧
      (∀ k, k + 1 < 2 → (before (k + 1)).hash = (after k).hash) ∧ one.hash = (before 0).hash ∧
      memRead one 0 2 = ((List.range 2).flatMap fun k => memRead (before k) 0 1) ∧
      exec (.update 0 2) one = .next u :=
  let before : Nat → State := fun k =>
    { State.reset with
      dbuf := if k = 0 then [(0, 1)] else [(0, 2)]
      hash := absorb State.reset.hash (List.replicate k 1) }
  ⟨before, fun k => complete { before k with hash := absorb (before k).hash (memRead (before k) 0 1) },
    { State.reset with dbuf := [(0, 1), (1, 2)] }, _, by decide, fun _ _ => rfl, by
      intro k hk
      obtain rfl : k = 0 := by omega
      rfl, rfl, rfl, rfl⟩

theorem witness_InputPositionAfterBytes_empty : ([] : List Byte).length ≤ 2 ^ 74 := by decide
theorem witness_InputPositionAfterBytes_some : [(0 : Byte)].length ≤ 2 ^ 74 ∧ [(0 : Byte)] ≠ [] := by decide

theorem witness_PushMergesTrailingZeros_odd :
    (1 : Counter) ≠ 0 ∧ ([] : List Cv).length = popcount (1 - 1) ∧ tz 1 = 0 := by decide +kernel
theorem witness_PushMergesTrailingZeros_most :
    (0x8000000000000000 : Counter) ≠ 0 ∧
      (List.replicate 63 iv).length = popcount (0x8000000000000000 - 1) ∧ tz 0x8000000000000000 = 63 := by
  decide +kernel

theorem witness_StackHoldsCompleteSubtrees : (List.replicate 1025 (0 : Byte)).length ≤ 2 ^ 74 := by
  rw [List.length_replicate]; norm_num

/-- `State.Inv` at reset. -/
theorem reset_hash_inv : State.reset.hash.Inv where
  bufZero := by decide
  emptyBlocks := by decide
  emptyCtr := by decide
  depth := by decide +kernel

theorem witness_StepKeepsInv_hash : State.reset.hash.Inv ∧ Memory.wf State.reset.dbuf = true ∧
    State.reset.seed.blockLen.toNat ≤ 64 ∧ State.reset.pending = none ∧ ∃ t, step State.reset = .next t :=
  ⟨reset_hash_inv, rfl, by decide, rfl, _, rfl⟩

/-- A busy state that meets the invariant and steps. -/
theorem witness_StepKeepsInv_busy : (busyWith (.update 0 0)).Inv ∧ ∃ t, step (busyWith (.update 0 0)) = .next t where
  left :=
    { hash := reset_hash_inv
      dbuf := rfl
      seedBlen := by decide
      pending := by
        intro i hi
        cases hi
        decide +kernel }
  right := ⟨_, rfl⟩

theorem witness_ObservabilityRegisters : (busyWith (.update 0 0)).Inv := witness_StepKeepsInv_busy.1

theorem witness_SeedCounterIsZero : State.reset.hash.Inv := reset_hash_inv

theorem witness_FinalizeIsPure :
    ∃ t u v w x : State, exec .finalize State.reset = .next t ∧ exec (.update 0 1) State.reset = .next u ∧
      exec (.update 0 1) t = .next v ∧ exec .xof t = .next w ∧ exec .finalize w = .next x :=
  ⟨_, _, _, _, _, rfl, rfl, rfl, rfl, rfl⟩

theorem witness_SeedSurvivesUpdate :
    ∃ t u v : State, exec (.update 0 1) State.reset = .next t ∧ exec .xof State.reset = .next u ∧
      exec .xof t = .next v := ⟨_, _, _, rfl, rfl, rfl⟩

theorem witness_HashKeyBindsAtInit_init :
    ∃ s t : State, step s = .next t ∧ t.hash.hMode ≠ s.hash.hMode ∧ s.pending = some .init :=
  ⟨{ busyWith .init with mode := 0x10 }, _, rfl, by decide, rfl⟩
theorem witness_HashKeyBindsAtInit_reset :
    ∃ s t : State, step s = .next t ∧ t.hash.hMode ≠ s.hash.hMode ∧ s.inputs = [.reset] :=
  ⟨{ withInputs [.reset] with hash := initialHash iv 0x10 }, _, rfl, by decide, rfl⟩

theorem witness_OnlyItsCommandWrites_xout :
    ∃ s t : State, step s = .next t ∧ (∀ rest, s.inputs ≠ .reset :: rest) ∧ t.xout ≠ s.xout :=
  ⟨busyWith .xof, _, rfl, by simp [busyWith, State.reset], by decide +kernel⟩
theorem witness_OnlyItsCommandWrites_res :
    ∃ s t : State, step s = .next t ∧ (∀ rest, s.inputs ≠ .reset :: rest) ∧ t.res ≠ s.res :=
  ⟨busyWith .compress4, _, rfl, by simp [busyWith, State.reset], by decide +kernel⟩
theorem witness_OnlyItsCommandWrites_seed :
    ∃ s t : State, step s = .next t ∧ (∀ rest, s.inputs ≠ .reset :: rest) ∧ t.seed ≠ s.seed ∧
      t.seedValid ≠ s.seedValid :=
  ⟨busyWith .finalize, _, rfl, by simp [busyWith, State.reset], by decide +kernel, by decide⟩
theorem witness_OnlyItsCommandWrites_hash :
    ∃ s t : State, step s = .next t ∧ (∀ rest, s.inputs ≠ .reset :: rest) ∧ t.hash ≠ s.hash :=
  ⟨{ busyWith (.update 0 1) with dbuf := [(0, 1)] }, _, rfl, by simp [busyWith, State.reset], by decide +kernel⟩
theorem witness_OnlyItsCommandWrites_lanes :
    ∃ s t : State, step s = .next t ∧ (∀ rest, s.inputs ≠ .reset :: rest) ∧ t.lanes ≠ s.lanes :=
  ⟨withInputs [.write 32 0x03EC 1], _, rfl, by simp [withInputs], by decide +kernel⟩
theorem witness_OnlyItsCommandWrites_key :
    ∃ s t : State, step s = .next t ∧ (∀ rest, s.inputs ≠ .reset :: rest) ∧ t.key ≠ s.key :=
  ⟨withInputs [.write 32 0x003C 1], _, rfl, by simp [withInputs], by decide +kernel⟩
theorem witness_OnlyItsCommandWrites_mode :
    ∃ s t : State, step s = .next t ∧ (∀ rest, s.inputs ≠ .reset :: rest) ∧ t.mode ≠ s.mode :=
  ⟨withInputs [.write 32 0x0010 1], _, rfl, by simp [withInputs], by decide +kernel⟩
theorem witness_OnlyItsCommandWrites_dbuf :
    ∃ s t : State, step s = .next t ∧ (∀ rest, s.inputs ≠ .reset :: rest) ∧ dbufByte t 4095 ≠ dbufByte s 4095 :=
  ⟨{ withInputs [.write 32 0x1FFC 0] with dbuf := [(4095, 1)] }, _, rfl, by simp [withInputs], by decide +kernel⟩

theorem witness_XofBlockIsStreamBlock : ∃ t, exec .xof State.reset = .next t := ⟨_, rfl⟩

/-- The states of two XOF commands after FINALIZE. -/
def xofRun : Nat → State
  | 0 => (match exec .finalize State.reset with
    | .next t => t
    | .fault _ => State.reset
    | .refused _ => State.reset)
  | k + 1 => (match exec .xof (xofRun k) with
    | .next t => t
    | .fault _ => State.reset
    | .refused _ => State.reset)

theorem witness_XofRunGivesStream :
    2 ≤ 2 ^ 64 ∧ exec .finalize State.reset = .next (xofRun 0) ∧
      ∀ j, j < 2 → exec .xof (xofRun j) = .next (xofRun (j + 1)) := ⟨by decide, rfl, fun _ _ => rfl⟩

theorem witness_XofRandomAccess :
    ({ State.reset with seedValid := true } : State).pending = none ∧
      ({ State.reset with seedValid := true } : State).seedValid = true := by decide

theorem witness_RootFlagOnlyFromXof :
    State.reset.hash.stack = [] ∧ State.reset.hash.hMode.getLsbD 3 = false ∧
      ({ State.reset.hash with stack := [iv] } : HashState).stack ≠ [] := by decide
theorem witness_RootFlagOnlyFromXof_mode : (0xF7 : DomainFlags).getLsbD 3 = false := by decide

theorem witness_FourChunkPathEqualsByteLoop :
    State.reset.hash.cs = newChunk State.reset.hash.hKey State.reset.hash.cs.ctr ∧
      ∀ k : Fin 4, (Vector.replicate 4 (List.replicate 1024 (0 : Byte)))[k].length = 1024 :=
  ⟨rfl, fun k => by
    rw [show (Vector.replicate 4 (List.replicate 1024 (0 : Byte)))[k] = List.replicate 1024 0 from
      Vector.getElem_replicate _]
    exact List.length_replicate⟩

theorem witness_AcceptedUpdateCountsBytes :
    acceptError (.update 0 24) (atPosition 0xFFFFFFFFFFFFFFFF 15 40) = none ∧
      ∃ t, exec (.update 0 24) (atPosition 0xFFFFFFFFFFFFFFFF 15 40) = .next t := ⟨by decide +kernel, _, rfl⟩

end Sys2Proof.Tests
end

/-! SUPPORT. Proofs for 00_scope.md: rotations and byte shuffles (R8, R99), blocks and their bytes (R9, R54, R56), and
the step that runs the pending command (R14, R45, R149). -/

namespace Sys2Proof.Machine

/-! ### Rotations (R8, R99) -/

/-- `rotr32` is the library's rotation to the right (R8). -/
theorem rotr32_eq_rotateRight (x : Word) {n : Nat} (hn : n < 32) : rotr32 x n = x.rotateRight n := by
  rw [BitVec.rotateRight_def, Nat.mod_eq_of_lt hn, rotr32]

/-- Rotating right by `k` bytes moves each byte down `k` places, around the end of the word. -/
theorem wordByte_rotateRight (x : Word) {k b : Nat} (hk : k < 4) (hb : b < 4) :
    wordByte (x.rotateRight (8 * k)) b = wordByte x ((b + k) % 4) := by
  apply BitVec.eq_of_getLsbD_eq
  intro i hi
  have hmod : 8 * k % 32 = 8 * k := by omega
  simp only [wordByte, BitVec.getLsbD_extractLsb', BitVec.getLsbD_rotateRight, hmod]
  by_cases hwrap : b + k < 4
  · have hlow : 8 * b + i < 32 - 8 * k := by omega
    have hidx : 8 * k + (8 * b + i) = 8 * ((b + k) % 4) + i := by omega
    simp [hlow, hidx]
  · have hhigh : ¬ 8 * b + i < 32 - 8 * k := by omega
    have hin : 8 * b + i < 32 := by omega
    have hidx : 8 * b + i - (32 - 8 * k) = 8 * ((b + k) % 4) + i := by omega
    simp [hhigh, hin, hidx]

/-- The byte shuffle whose pattern starts at byte `k` and goes around is the rotation by `k` bytes (R99, GK-1). -/
theorem shuffleBytes_eq_rotr32 (x : Word) {k : Nat} (hk : k < 4) :
    shuffleBytes x ((0 + k) % 4) ((1 + k) % 4) ((2 + k) % 4) ((3 + k) % 4) = rotr32 x (8 * k) := by
  rw [rotr32_eq_rotateRight x (by omega), ← le32_wordByte (x.rotateRight (8 * k)), shuffleBytes]
  simp only [wordByte_rotateRight x hk, Nat.reduceLT]

/-- Settles O30: both shuffles are instances of `shuffleBytes_eq_rotr32`, by two bytes and by one. -/
theorem rotationsAgree : Obligations.RotationsAgree := by
  intro x
  exact ⟨shuffleBytes_eq_rotr32 x (k := 2) (by decide), shuffleBytes_eq_rotr32 x (k := 1) (by decide),
    fun n _ hn => rotr32_eq_rotateRight x hn⟩

/-! ### Blocks and their bytes (R9, R54, R56) -/

theorem bytesOf_cons (w : Word) (ws : List Word) : bytesOf (w :: ws) = wordBytes w ++ bytesOf ws := rfl

@[simp] theorem length_bytesOf (ws : List Word) : (bytesOf ws).length = 4 * ws.length := by
  induction ws with
  | nil => rfl
  | cons w ws ih =>
    rw [bytesOf_cons, List.length_append, ih, List.length_cons, wordBytes]
    simp only [List.length_cons, List.length_nil]
    omega

/-- Byte `4i + b` of a word list's bytes is byte `b` of its word `i` (R9). -/
theorem bytesOf_getElem? (ws : List Word) (i : Nat) {b : Nat} (hb : b < 4) :
    (bytesOf ws)[4 * i + b]? = ws[i]?.map (wordByte · b) := by
  induction ws generalizing i with
  | nil => rfl
  | cons w ws ih =>
    rw [bytesOf_cons]
    cases i with
    | zero =>
      rw [List.getElem?_append_left (by simpa [wordBytes] using hb)]
      interval_cases b <;> rfl
    | succ i =>
      have hlen : (wordBytes w).length = 4 := rfl
      rw [List.getElem?_append_right (by omega), hlen, show 4 * (i + 1) + b - 4 = 4 * i + b by omega, ih]
      rfl

/-- Byte `4i + b` of a block's bytes (R9, R56). -/
theorem bytesOf_block_getElem? (w : Block) (i : Fin 16) {b : Nat} (hb : b < 4) :
    (bytesOf w.toList)[4 * i.val + b]? = some (wordByte w[i] b) := by
  rw [bytesOf_getElem? _ _ hb]
  simp

/-- Byte `b` of word `i` of `words16(B)` is byte `4i + b` of B, or 0 past its end (R9, R54). -/
theorem wordByte_words16 (bs : List Byte) (i : Fin 16) {b : Nat} (hb : b < 4) :
    wordByte (words16 bs)[i] b = bs.getD (4 * i.val + b) 0 := by
  have hword : (words16 bs)[i] = le32 (bs.getD (4 * i.val) 0) (bs.getD (4 * i.val + 1) 0)
      (bs.getD (4 * i.val + 2) 0) (bs.getD (4 * i.val + 3) 0) := by simp [words16]
  obtain ⟨h0, h1, h2, h3⟩ := wordByte_le32 (bs.getD (4 * i.val) 0) (bs.getD (4 * i.val + 1) 0)
    (bs.getD (4 * i.val + 2) 0) (bs.getD (4 * i.val + 3) 0)
  rw [hword]
  interval_cases b
  · exact h0
  · exact h1
  · exact h2
  · exact h3

/-- A byte string of at most `n` bytes, padded with zeros to `n`, byte by byte. -/
theorem padZero_getElem? (bs : List Byte) {n a : Nat} (hbs : bs.length ≤ n) (ha : a < n) :
    (bs ++ List.replicate (n - bs.length) 0)[a]? = some (bs.getD a 0) := by
  by_cases hin : a < bs.length
  · simp [List.getElem?_append_left hin, hin]
  · rw [List.getElem?_append_right (by omega), List.getElem?_replicate_of_lt (by omega),
      List.getD_eq_default _ _ (by omega)]

/-- The bytes of `words16(B)` are B padded with zeros to 64 bytes (R9, R54). -/
theorem bytesOf_words16 (bs : List Byte) (hbs : bs.length ≤ 64) :
    bytesOf (words16 bs).toList = bs ++ List.replicate (64 - bs.length) 0 := by
  apply List.ext_getElem?
  intro a
  by_cases ha : a < 64
  · have hb : a % 4 < 4 := Nat.mod_lt a (by decide)
    have hsplit : 4 * (a / 4) + a % 4 = a := Nat.div_add_mod a 4
    have hbyte := bytesOf_block_getElem? (words16 bs) ⟨a / 4, by omega⟩ hb
    rw [wordByte_words16 bs ⟨a / 4, by omega⟩ hb] at hbyte
    simp only [hsplit] at hbyte
    rw [hbyte, padZero_getElem? bs hbs ha]
  · rw [List.getElem?_eq_none (by simp; omega), List.getElem?_eq_none (by simp; omega)]

/-- `words16` of a block's bytes is the block (R9). -/
theorem words16_bytesOf (w : Block) : words16 (bytesOf w.toList) = w := by
  apply Vector.ext
  intro i hi
  have hbyte (b : Nat) (hb : b < 4) : (bytesOf w.toList).getD (4 * i + b) 0 = wordByte w[i] b := by
    rw [List.getD_eq_getElem?_getD, bytesOf_block_getElem? w ⟨i, hi⟩ hb]
    rfl
  calc (words16 (bytesOf w.toList))[i]
      = le32 ((bytesOf w.toList).getD (4 * i + 0) 0) ((bytesOf w.toList).getD (4 * i + 1) 0)
          ((bytesOf w.toList).getD (4 * i + 2) 0) ((bytesOf w.toList).getD (4 * i + 3) 0) := by simp [words16]
    _ = le32 (wordByte w[i] 0) (wordByte w[i] 1) (wordByte w[i] 2) (wordByte w[i] 3) := by
        rw [hbyte 0 (by decide), hbyte 1 (by decide), hbyte 2 (by decide), hbyte 3 (by decide)]
    _ = w[i] := le32_wordByte w[i]

/-- Settles O33, from the byte-by-byte readings of `bytesOf` and `words16`. -/
theorem blockBytesRoundTrip : Obligations.BlockBytesRoundTrip :=
  ⟨bytesOf_words16, words16_bytesOf, fun w i b => bytesOf_block_getElem? w i b.isLt⟩

/-! ### The step that runs the pending command (R14, R45, R149) -/

theorem engineStep_of_pending {i : Instr} {s : State} (hp : s.pending = some i) : engineStep s = exec i s := by
  simp only [engineStep, hp]

theorem engineStep_of_idle {s : State} (hp : s.pending = none) : engineStep s = .next s := by
  simp only [engineStep, hp]

theorem step_of_inputs_nil {s : State} (hin : s.inputs = []) : step s = engineStep s := by
  simp only [step, hin]

theorem step_of_engineTurn {s : State} {rest : List Input} (hin : s.inputs = .engineTurn :: rest) :
    step s = engineStep { s with inputs := rest } := by
  simp only [step, hin]

/-- With no input waiting, a well-formed command word is placed in PENDING and nothing else changes (log 2). -/
theorem withFetchWord_of_inputs_nil {nbits w : Nat} {i : Instr} {s : State}
    (hdec : decodeTableWord nbits w = some i) (hwf : i.wellFormed = true) (hin : s.inputs = []) :
    s.withFetchWord nbits w = { s with pending := some i } := by
  simp only [State.withFetchWord, hdec, hwf, hin, if_true]

/-- An input that waits is put off by an engine's turn, so that the word placed in PENDING runs first (log 2). -/
theorem withFetchWord_of_inputs_cons {nbits w : Nat} {i : Instr} {s : State} {e : Input} {rest : List Input}
    (hdec : decodeTableWord nbits w = some i) (hwf : i.wellFormed = true) (hin : s.inputs = e :: rest) :
    s.withFetchWord nbits w = { s with pending := some i, inputs := .engineTurn :: s.inputs } := by
  simp only [State.withFetchWord, hdec, hwf, hin, if_true]

/-- The step after a well-formed command word is placed runs that command (log 2). -/
theorem step_withFetchWord {nbits w : Nat} {i : Instr} {s : State}
    (hdec : decodeTableWord nbits w = some i) (hwf : i.wellFormed = true) :
    step (s.withFetchWord nbits w) = exec i { s with pending := some i } := by
  cases hin : s.inputs with
  | nil =>
    rw [withFetchWord_of_inputs_nil hdec hwf hin,
      step_of_inputs_nil (s := { s with pending := some i }) hin, engineStep_of_pending rfl, ← hin]
  | cons e rest =>
    rw [withFetchWord_of_inputs_cons hdec hwf hin, step_of_engineTurn rfl, engineStep_of_pending rfl, ← hin]

/-- Settles O6: a step with no input waiting, or with `engineTurn` the oldest, is `engineStep`. -/
theorem stepRunsPendingCommand : Obligations.StepRunsPendingCommand := by
  refine ⟨?pendingNoInput, ?pendingTurn, ?placedWord, ?idleNoInput, ?idleTurn⟩
  case pendingNoInput =>
    intro i s hp hin
    rw [step_of_inputs_nil hin, engineStep_of_pending hp]
  case pendingTurn =>
    intro i s rest hp hin
    rw [step_of_engineTurn hin]
    exact engineStep_of_pending hp
  case placedWord => exact fun w i s hdec hwf => step_withFetchWord hdec hwf
  case idleNoInput =>
    intro s hp hin
    rw [step_of_inputs_nil hin, engineStep_of_idle hp]
  case idleTurn =>
    intro s rest hp hin
    rw [step_of_engineTurn hin]
    exact engineStep_of_idle hp

end Sys2Proof.Machine

/-! SUPPORT. Proofs for 10_state.md: the invariants of the hash state and of the engine (R26 to R29, R41 to R45), the
subtrees on the CV stack (R43), the register map and its reads and writes (R18 to R25, R32, R38, R39, R46), and which
event may change which state (R31 to R37, R42, R49). -/

namespace Sys2Proof.Machine

/-! ### The number of one bits, and the depth of the stack after a push (R12, R28, R127) -/

theorem toNat_mod_two_of_odd {n : Counter} (hodd : n.getLsbD 0 = true) : n.toNat % 2 = 1 := by
  simpa [BitVec.getLsbD, Nat.testBit_zero] using hodd

theorem toNat_mod_two_of_even {n : Counter} (heven : n.getLsbD 0 = false) : n.toNat % 2 = 0 := by
  simpa [BitVec.getLsbD, Nat.testBit_zero] using heven

theorem toNat_shiftRight_one (n : Counter) : (n >>> 1).toNat = n.toNat / 2 := by
  simp [Nat.shiftRight_eq_div_pow]

/-- A counter that is not 0 counts down without wrapping. -/
theorem toNat_sub_one {n : Counter} (hn : 0 < n.toNat) : (n - 1).toNat = n.toNat - 1 := by
  have := n.isLt
  have hone : (1 : Counter).toNat = 1 := rfl
  rw [BitVec.toNat_sub, hone]
  omega

/-- A counter below its last value counts up without wrapping. -/
theorem toNat_add_one {n : Counter} (hn : n.toNat + 1 < 2 ^ 64) : (n + 1).toNat = n.toNat + 1 := by
  have hone : (1 : Counter).toNat = 1 := rfl
  rw [BitVec.toNat_add, hone]
  omega

theorem onesBelow_le (bits n : Nat) : onesBelow bits n ≤ bits := by
  induction bits generalizing n with
  | zero => exact Nat.le_refl 0
  | succ bits ih =>
    have := ih (n / 2)
    rw [onesBelow]
    omega

/-- A number below `2 ^ bits` has no one bit at `bits`. -/
theorem onesBelow_succ_of_lt {bits n : Nat} (hn : n < 2 ^ bits) : onesBelow (bits + 1) n = onesBelow bits n := by
  induction bits generalizing n with
  | zero => simp [onesBelow, Nat.lt_one_iff.mp hn]
  | succ bits ih => rw [onesBelow, ih (by omega), ← onesBelow]

theorem popcount_zero : popcount 0 = 0 := by decide

theorem popcount_le (n : Counter) : popcount n ≤ 64 := onesBelow_le 64 n.toNat

/-- The one bits of a counter are its lowest bit and those of its half. -/
theorem popcount_halve (n : Counter) : popcount n = n.toNat % 2 + popcount (n >>> 1) := by
  have := n.isLt
  rw [popcount, popcount, toNat_shiftRight_one, onesBelow, onesBelow_succ_of_lt (bits := 63) (by omega)]

theorem popcount_of_even {n : Counter} (heven : n.getLsbD 0 = false) : popcount n = popcount (n >>> 1) := by
  rw [popcount_halve, toNat_mod_two_of_even heven, Nat.zero_add]

theorem popcount_of_odd {n : Counter} (hodd : n.getLsbD 0 = true) : popcount n = popcount (n - 1) + 1 := by
  have hmod := toNat_mod_two_of_odd hodd
  have hpred := toNat_sub_one (n := n) (by omega)
  have hhalf : (n - 1) >>> 1 = n >>> 1 := by
    apply BitVec.eq_of_toNat_eq
    rw [toNat_shiftRight_one, toNat_shiftRight_one, hpred]
    omega
  rw [popcount_halve n, popcount_halve (n - 1), hhalf, hpred]
  omega

/-- The predecessor of an even counter has its lowest bit set above the predecessor of the half. -/
theorem popcount_pred_of_even {n : Counter} (heven : n.getLsbD 0 = false) (hn : n ≠ 0) :
    n >>> 1 ≠ 0 ∧ popcount (n - 1) = popcount (n >>> 1 - 1) + 1 := by
  have hmod := toNat_mod_two_of_even heven
  have hpos : 0 < n.toNat := Nat.pos_of_ne_zero fun h0 => hn (BitVec.eq_of_toNat_eq h0)
  have hhalfNat := toNat_shiftRight_one n
  have hhalf : (n - 1) >>> 1 = n >>> 1 - 1 := by
    apply BitVec.eq_of_toNat_eq
    rw [toNat_shiftRight_one, toNat_sub_one hpos, toNat_sub_one (by omega), hhalfNat]
    omega
  refine ⟨fun h0 => ?_, ?_⟩
  · have hzero : (n >>> 1).toNat = 0 := congrArg BitVec.toNat h0
    omega
  · rw [popcount_halve (n - 1), hhalf, toNat_sub_one hpos]
    omega

/-- A push with `total = n` onto popcount(n - 1) entries leaves popcount(n) (R43, R127). -/
theorem accPush_length {key : Cv} {mode : DomainFlags} {st : List Cv} {n : Counter} (cv : Cv) (hn : n ≠ 0)
    (hst : st.length = popcount (n - 1)) : (accPush key mode st cv n).length = popcount n := by
  induction st generalizing cv n with
  | nil =>
    cases hpar : n.getLsbD 0 with
    | true => rw [accPush_odd hpar, popcount_of_odd hpar, ← hst]; rfl
    | false =>
      have := (popcount_pred_of_even hpar hn).2
      rw [List.length_nil] at hst
      omega
  | cons left rest ih =>
    cases hpar : n.getLsbD 0 with
    | true => rw [accPush_odd hpar, popcount_of_odd hpar, ← hst]; rfl
    | false =>
      obtain ⟨hhalf, hpop⟩ := popcount_pred_of_even hpar hn
      rw [List.length_cons] at hst
      rw [accPush_even hpar, popcount_of_even hpar, ih _ hhalf (by omega)]

/-! ### The byte loop of UPDATE keeps the invariants (R41, R43, R117, R121) -/

theorem totalBytes_eq (cs : ChunkState) :
    cs.totalBytes = cs.ctr.toNat * 1024 + (cs.blocks.val * 64 + cs.bufLen.val) := rfl

/-- One more byte in a buffer with room does not wrap CS.buf_len. -/
theorem bufLen_succ_val {n : Fin 65} (hn : n.val < 64) : (n + 1).val = n.val + 1 := by
  rw [Fin.val_add]
  exact Nat.mod_eq_of_lt (by simpa using Nat.succ_lt_succ hn)

/-- One more block in a chunk that is not full does not wrap CS.blocks (R118). -/
theorem blocks_succ_val {n : Fin 16} (hn : n.val < 15) : (n + 1).val = n.val + 1 := by
  rw [Fin.val_add]
  exact Nat.mod_eq_of_lt (by simpa using Nat.succ_lt_succ hn)

theorem appendByte_totalBytes {cs : ChunkState} (x : Byte) (hroom : cs.bufLen.val < 64) :
    (appendByte cs x).totalBytes = cs.totalBytes + 1 := by
  simp only [totalBytes_eq, appendByte_ctr, appendByte_blocks, appendByte_bufLen, bufLen_succ_val hroom]
  omega

/-- The counter of a full chunk does not wrap while another byte is within the limit of R121. -/
theorem ctr_succ_of_full {cs : ChunkState} (hblocks : cs.blocks.val = 15) (hbuf : cs.bufLen.val = 64)
    (hlim : cs.totalBytes < 2 ^ 74) : (cs.ctr + 1).toNat = cs.ctr.toNat + 1 := by
  rw [totalBytes_eq] at hlim
  exact toNat_add_one (by omega)

/-- Within the limit of R121 one byte of UPDATE adds 1 to the bytes consumed. -/
theorem absorbByte_totalBytes {h : HashState} (x : Byte) (hlim : h.cs.totalBytes < 2 ^ 74) :
    (absorbByte h x).cs.totalBytes = h.cs.totalBytes + 1 := by
  rcases absorbByte_cases h x with ⟨hblocks, hbuf, e⟩ | ⟨hblocks, hbuf, e⟩ | ⟨hroom, e⟩
  · have hctr := ctr_succ_of_full hblocks hbuf hlim
    simp only [e, totalBytes_eq, appendByte_ctr, appendByte_blocks, appendByte_bufLen, newChunk_ctr, newChunk_blocks,
      newChunk_bufLen, hctr, hblocks, hbuf]
    simp only [Fin.val_zero, zero_add, Fin.val_one]
    omega
  · rw [e, appendByte_totalBytes x (by simp)]
    simp only [totalBytes_eq, compressBlock_ctr, compressBlock_blocks, compressBlock_bufLen, blocks_succ_val hblocks,
      hbuf, Fin.val_zero]
    omega
  · rw [e, appendByte_totalBytes x hroom]

/-- Within the limit of R121 the loop of UPDATE adds the length of its input to the bytes consumed. -/
theorem absorb_totalBytes {h : HashState} (xs : List Byte) (hlim : h.cs.totalBytes + xs.length ≤ 2 ^ 74) :
    (absorb h xs).cs.totalBytes = h.cs.totalBytes + xs.length := by
  induction xs generalizing h with
  | nil => rw [absorb_nil, List.length_nil, Nat.add_zero]
  | cons x xs ih =>
    rw [List.length_cons] at hlim
    have hstep := absorbByte_totalBytes x (h := h) (by omega)
    rw [absorb_cons, ih (by omega), hstep, List.length_cons]
    omega

/-- R41 (b): the buffer is zero past its valid bytes. -/
def ChunkState.ZeroPastValid (cs : ChunkState) : Prop := ∀ i : Fin 64, cs.bufLen.val ≤ i.val → cs.buf[i] = 0

theorem newChunk_zeroPastValid (key : Cv) (ctr : Counter) : (newChunk key ctr).ZeroPastValid := by
  intro i _
  exact Vector.getElem_replicate _

theorem compressBlock_zeroPastValid (mode : DomainFlags) (cs : ChunkState) : (compressBlock mode cs).ZeroPastValid := by
  intro i _
  exact Vector.getElem_replicate _

theorem appendByte_zeroPastValid {cs : ChunkState} (x : Byte) (hroom : cs.bufLen.val < 64) (hz : cs.ZeroPastValid) :
    (appendByte cs x).ZeroPastValid := by
  intro i hi
  rw [appendByte_bufLen, bufLen_succ_val hroom] at hi
  have hne : cs.bufLen.val ≠ i.val := by omega
  simpa [appendByte, Vector.getElem_setIfInBounds, hne] using hz i (by omega)

/-- The buffer of a chunk that took a byte is not empty (R41 (c), (d)). -/
theorem appendByte_bufLen_ne_zero {cs : ChunkState} (x : Byte) (hroom : cs.bufLen.val < 64) :
    (appendByte cs x).bufLen ≠ 0 := by
  intro h0
  have := congrArg Fin.val h0
  rw [appendByte_bufLen, bufLen_succ_val hroom] at this
  simp at this

/-- R41 and R43 hold of a hash state whose chunk has just taken a byte, once the buffer and the depth are right. -/
theorem HashState.Inv.of_appendByte {key : Cv} {mode : DomainFlags} {cs : ChunkState} {st : List Cv} (x : Byte)
    (hroom : cs.bufLen.val < 64) (hz : cs.ZeroPastValid) (hdepth : st.length = popcount cs.ctr) :
    HashState.Inv { hKey := key, hMode := mode, cs := appendByte cs x, stack := st } where
  bufZero := appendByte_zeroPastValid x hroom hz
  emptyBlocks h0 := absurd h0 (appendByte_bufLen_ne_zero x hroom)
  emptyCtr h0 := absurd h0 (appendByte_bufLen_ne_zero x hroom)
  depth := hdepth

/-- A new chunk with an empty stack meets the invariants (R110, R116). -/
theorem HashState.Inv.initial (key : Cv) (mode : DomainFlags) : (initialHash key mode).Inv where
  bufZero := newChunk_zeroPastValid key 0
  emptyBlocks _ := rfl
  emptyCtr _ := rfl
  depth := popcount_zero.symm

theorem absorbByte_inv {h : HashState} (x : Byte) (hinv : h.Inv) (hlim : h.cs.totalBytes < 2 ^ 74) :
    (absorbByte h x).Inv := by
  obtain ⟨hz, _, _, hdepth⟩ := hinv
  rcases absorbByte_cases h x with ⟨hblocks, hbuf, e⟩ | ⟨_, _, e⟩ | ⟨hroom, e⟩
  · have hctr := ctr_succ_of_full hblocks hbuf hlim
    have hne : h.cs.ctr + 1 ≠ 0 := fun h0 => absurd (congrArg BitVec.toNat h0) (by rw [hctr]; simp)
    rw [e]
    refine .of_appendByte x (by simp) (newChunk_zeroPastValid _ _) (accPush_length _ hne ?_)
    rw [BitVec.add_sub_cancel]
    exact hdepth
  · rw [e]
    exact .of_appendByte x (by simp) (compressBlock_zeroPastValid _ _) hdepth
  · rw [e]
    exact .of_appendByte x hroom hz hdepth

theorem absorb_inv {h : HashState} (xs : List Byte) (hinv : h.Inv) (hlim : h.cs.totalBytes + xs.length ≤ 2 ^ 74) :
    (absorb h xs).Inv := by
  induction xs generalizing h with
  | nil => exact hinv
  | cons x xs ih =>
    rw [List.length_cons] at hlim
    have hstep := absorbByte_totalBytes x (h := h) (by omega)
    exact ih (absorbByte_inv x hinv (by omega)) (by omega)

/-! ### The invariant of the engine (R29, R45, R149) -/

/-- Settles O44: reset leaves the hash state of an INIT, DBUF empty and nothing pending. -/
theorem invHoldsAtReset : Obligations.InvHoldsAtReset where
  hash := .initial iv 0
  dbuf := reset_dbuf_wf
  seedBlen := by decide
  pending _ hp := nomatch hp

/-- An event that leaves PENDING and what the invariant speaks of, but for DBUF in its canonical form, keeps it. -/
theorem State.Inv.of_unchanged {s t : State} (hinv : s.Inv) (hhash : t.hash = s.hash)
    (hdbuf : Memory.wf t.dbuf = true) (hseed : t.seed = s.seed) (hvalid : t.seedValid = s.seedValid)
    (hpend : t.pending = s.pending) : t.Inv where
  hash := hhash ▸ hinv.hash
  dbuf := hdbuf
  seedBlen := hseed ▸ hinv.seedBlen
  pending i hp := by
    rw [acceptError_congr i hvalid (congrArg HashState.cs hhash)]
    exact hinv.pending i (hpend ▸ hp)

theorem resetEngine_inv (s : State) : (resetEngine s).Inv :=
  { invHoldsAtReset with pending := fun _ hp => nomatch hp }

/-- Completion empties PENDING, so the invariant is left to hold of the hash state, DBUF and SEED_BLEN (R149). -/
theorem complete_inv {s : State} (hhash : s.hash.Inv) (hdbuf : Memory.wf s.dbuf = true)
    (hseed : s.seed.blockLen.toNat ≤ 64) : (complete s).Inv where
  hash := hhash
  dbuf := hdbuf
  seedBlen := hseed
  pending _ hp := nomatch hp

/-- The block length of a chunk's final block is CS.buf_len (R113). -/
theorem chunkOutput_blockLen_le (mode : DomainFlags) (cs : ChunkState) : (chunkOutput mode cs).blockLen.toNat ≤ 64 := by
  have hlt := cs.bufLen.isLt
  show (BitVec.ofNat 32 cs.bufLen.val).toNat ≤ 64
  rw [BitVec.toNat_ofNat]
  omega

/-- The fold of R131 keeps a block length: a parent's is 64. -/
theorem foldStack_blockLen_le (key : Cv) (mode : DomainFlags) (st : List Cv) {o : Operands}
    (ho : o.blockLen.toNat ≤ 64) : (foldStack key mode st o).blockLen.toNat ≤ 64 := by
  induction st generalizing o with
  | nil => exact ho
  | cons left rest ih => exact ih (Nat.le_refl 64)

/-- SEED_BLEN is a block length (R29). -/
theorem rootSeed_blockLen_le (h : HashState) : (rootSeed h).blockLen.toNat ≤ 64 :=
  foldStack_blockLen_le _ _ _ (chunkOutput_blockLen_le _ _)

/-- What acceptance says of an UPDATE: its bytes stay within the limit of R121. -/
theorem totalBytes_le_of_acceptError_update {off : BitVec 12} {len : BitVec 13} {s : State}
    (hacc : acceptError (.update off len) s = none) : s.hash.cs.totalBytes + len.toNat ≤ 2 ^ 74 := by
  by_contra hover
  have hgt : s.hash.cs.totalBytes + len.toNat > maxInputBytes := by
    rw [maxInputBytes_eq]
    omega
  unfold acceptError at hacc
  split at hacc
  · cases hacc
  · simp [Instr.opcode, Instr.len] at hacc
    omega

/-- The accepted command keeps the invariant (R149). -/
theorem exec_inv {i : Instr} {s t : State} (hinv : s.Inv) (hacc : acceptError i s = none) (hexec : exec i s = .next t) :
    t.Inv := by
  obtain ⟨hhash, hdbuf, hseed, _⟩ := hinv
  cases i with
  | init =>
    cases hexec
    exact complete_inv (.initial s.key s.mode) hdbuf hseed
  | update off len =>
    cases hexec
    refine complete_inv (absorb_inv _ hhash ?_) hdbuf hseed
    rw [memRead_length]
    exact totalBytes_le_of_acceptError_update hacc
  | finalize =>
    cases hexec
    exact complete_inv hhash hdbuf (rootSeed_blockLen_le s.hash)
  | xof =>
    cases hexec
    exact complete_inv hhash hdbuf hseed
  | compress =>
    cases hexec
    exact complete_inv hhash hdbuf hseed
  | compress4 =>
    cases hexec
    exact complete_inv hhash hdbuf hseed

/-- Everything a register write can do to PENDING: it stays, or an idle engine accepts a command (R73, R149). -/
theorem writeRegister_pending_cases (r : Reg) (v : Word) (s : State) :
    (writeRegister r v s).pending = s.pending ∨
    (s.busy = false ∧ r = .cmd ∧ ∃ i, acceptError i s = none ∧ (writeRegister r v s).pending = some i) := by
  rcases writeRegister_cases r v s with ⟨_, _, hw⟩ | ⟨hidle, hw⟩
  · exact .inl (by rw [hw, recordError_pending])
  · rw [hw]
    cases r with
    | cmd =>
      have hb : s.busy = false := by simpa [Reg.refusedWhileBusy] using hidle
      rcases submit_cases v s with ⟨_, _, hsub⟩ | ⟨_, _, _, _, hsub⟩ | ⟨i, _, hacc, hsub⟩
      · exact .inl (by rw [writeReg, hsub, recordError_pending])
      · exact .inl (by rw [writeReg, hsub, recordError_pending])
      · exact .inr ⟨hb, rfl, i, hacc, by rw [writeReg, hsub, accept_pending]⟩
    | _ => exact .inl rfl

theorem writeRegister_inv {r : Reg} {v : Word} {s : State} (hinv : s.Inv) : (writeRegister r v s).Inv where
  hash := by rw [writeRegister_hash]; exact hinv.hash
  dbuf := writeRegister_dbuf_wf hinv.dbuf
  seedBlen := by rw [writeRegister_seed]; exact hinv.seedBlen
  pending i hp := by
    rw [acceptError_congr (s := s) i (by simp) (by simp)]
    rcases writeRegister_pending_cases r v s with hkeep | ⟨_, _, j, hacc, hnew⟩
    · exact hinv.pending i (hkeep ▸ hp)
    · rw [hnew, Option.some.injEq] at hp
      exact hp ▸ hacc

theorem recordError_inv {e : ErrorCode} {s : State} (hinv : s.Inv) : (recordError e s).Inv :=
  hinv.of_unchanged (by simp) (by simpa using hinv.dbuf) (by simp) (by simp) (by simp)

theorem busWrite_inv {width off : Nat} {v : Word} {s t : State} (hinv : s.Inv)
    (hw : busWrite width off v s = .next t) : t.Inv := by
  rcases busWrite_next hw with ⟨_, ⟨_, rfl⟩ | ⟨_, rfl⟩⟩
  · exact writeRegister_inv hinv
  · exact recordError_inv hinv

theorem busRead_inv {width off : Nat} {s t : State} (hinv : s.Inv) (hr : busRead width off s = .next t) : t.Inv := by
  rcases busRead_next hr with ⟨_, ⟨_, rfl⟩ | ⟨_, rfl⟩⟩
  · exact hinv.of_unchanged (by simp) (by simpa using hinv.dbuf) (by simp) (by simp) (by simp)
  · exact hinv.of_unchanged (by simp) (by simpa using hinv.dbuf) (by simp) (by simp) (by simp)

theorem State.Inv.with_inputs {s : State} (hinv : s.Inv) (l : List Input) : State.Inv { s with inputs := l } :=
  hinv.of_unchanged rfl hinv.dbuf rfl rfl rfl

/-- Settles O45, by the cases of a step: each kind of event keeps the invariant. -/
theorem stepKeepsInv : Obligations.StepKeepsInv := by
  intro s t hinv hstep
  rcases step_cases hstep with ⟨i, rest, hp, _, hexec⟩ | ⟨rest, _, _, rfl⟩ | ⟨width, off, v, rest, _, hw⟩ |
    ⟨width, off, rest, _, hr⟩ | ⟨rest, _, rfl⟩
  · exact exec_inv (hinv.with_inputs rest) (hinv.pending i hp) hexec
  · exact hinv.with_inputs rest
  · exact busWrite_inv (hinv.with_inputs rest) hw
  · exact busRead_inv (hinv.with_inputs rest) hr
  · exact resetEngine_inv _

/-! ### The observability registers (R26 to R28, R44) -/

/-- A counter is its two halves (R26). -/
theorem ctrHigh_ctrLow_toNat (c : Counter) : (ctrHigh c).toNat * 2 ^ 32 + (ctrLow c).toNat = c.toNat := by
  have := c.isLt
  simp only [ctrHigh, ctrLow, BitVec.extractLsb'_toNat, Nat.shiftRight_eq_div_pow]
  omega

/-- CHUNK_LEN shows the length of the chunk, with no bit lost (R27). -/
theorem readReg_chunkLen_toNat (s : State) : (readReg .chunkLen s).toNat = s.hash.cs.chunkLen := by
  have hle := chunkLen_le s.hash.cs
  rw [readReg, BitVec.toNat_ofNat]
  omega

/-- Under R43 the stack holds at most 64 CVs (R44). -/
theorem HashState.Inv.depth_le {h : HashState} (hinv : h.Inv) : h.stack.length ≤ 64 :=
  calc h.stack.length = popcount h.cs.ctr := hinv.depth
    _ ≤ 64 := popcount_le _

/-- Settles O46: each register is a view whose value fits in 32 bits, STACK_DEPTH's by the depth invariant. -/
theorem observabilityRegisters : Obligations.ObservabilityRegisters := by
  refine ⟨fun s => ctrHigh_ctrLow_toNat _, fun s => ?_, fun s hinv => ?_⟩
  · rw [readReg_chunkLen_toNat]
    exact ⟨rfl, chunkLen_le _⟩
  · have hle := hinv.hash.depth_le
    refine ⟨?_, hle⟩
    rw [readReg, BitVec.toNat_ofNat, HashState.depth]
    omega

/-! ### The subtrees on the stack, level by level (R43, R127)

`subtreeStack` lists the subtrees by the set bits of the chunk count. A push works from the smallest subtree up, one
level at a time, so the same stack is described once more by halving: at each level the CVs are the roots of pairs of
the level below. -/

/-- The CVs one level up: the parents of the pairs (R126). -/
def pairCvs (key : Cv) (mode : DomainFlags) (cvs : Nat → Cv) (i : Nat) : Cv :=
  parentCv key mode (cvs (2 * i)) (cvs (2 * i + 1))

/-- The stack after `n` chunks, top first, by its lowest `bits` levels: an odd last CV stands alone, the pairs before it
are merged. -/
def levelStack (key : Cv) (mode : DomainFlags) : Nat → (Nat → Cv) → Nat → List Cv
  | 0, _, _ => []
  | bits + 1, cvs, n =>
    if n.testBit 0 then cvs (n / 2 * 2) :: levelStack key mode bits (pairCvs key mode cvs) (n / 2)
    else levelStack key mode bits (pairCvs key mode cvs) (n / 2)

section
variable {key : Cv} {mode : DomainFlags}

theorem levelStack_odd {bits n : Nat} {cvs : Nat → Cv} (hodd : n % 2 = 1) :
    levelStack key mode (bits + 1) cvs n =
      cvs (n / 2 * 2) :: levelStack key mode bits (pairCvs key mode cvs) (n / 2) := by
  simp [levelStack, hodd]

theorem levelStack_even {bits n : Nat} {cvs : Nat → Cv} (heven : n % 2 = 0) :
    levelStack key mode (bits + 1) cvs n = levelStack key mode bits (pairCvs key mode cvs) (n / 2) := by
  simp [levelStack, heven]

theorem levelStack_zero (bits : Nat) (cvs : Nat → Cv) : levelStack key mode bits cvs 0 = [] := by
  induction bits generalizing cvs with
  | zero => rfl
  | succ bits ih => rw [levelStack_even (Nat.zero_mod 2), ih]

/-- A subtree of level `l + 1` over chunks is one of level `l` over their pairs. -/
theorem subtreeCv_succ (cvs : Nat → Cv) (l start : Nat) :
    subtreeCv key mode cvs (l + 1) (2 * start) = subtreeCv key mode (pairCvs key mode cvs) l start := by
  induction l generalizing start with
  | zero => rfl
  | succ l ih =>
    have hright : 2 * start + 2 ^ (l + 1) = 2 * (start + 2 ^ l) := by ring
    rw [subtreeCv, ih, hright, ih, ← subtreeCv]

/-- The stack of R43 for any number of levels: `subtreeStack` is the one of 64. -/
theorem levelStack_eq_map (bits : Nat) (cvs : Nat → Cv) (n : Nat) :
    levelStack key mode bits cvs n =
      ((List.range bits).filter n.testBit).map
        fun l => subtreeCv key mode cvs l (n / 2 ^ (l + 1) * 2 ^ (l + 1)) := by
  induction bits generalizing cvs n with
  | zero => rfl
  | succ bits ih =>
    have hbit : n.testBit ∘ Nat.succ = (n / 2).testBit := funext fun l => Nat.testBit_succ n l
    have hlevel (l : Nat) : subtreeCv key mode cvs (l + 1) (n / 2 ^ (l + 1 + 1) * 2 ^ (l + 1 + 1)) =
        subtreeCv key mode (pairCvs key mode cvs) l (n / 2 / 2 ^ (l + 1) * 2 ^ (l + 1)) := by
      rw [← subtreeCv_succ, Nat.div_div_eq_div_mul, ← pow_succ', pow_succ' 2 (l + 1)]
      congr 1
      ring
    rw [List.range_succ_eq_map, List.filter_cons, List.filter_map, hbit, levelStack, ih]
    split
    · simp only [List.map_cons, List.map_map, Function.comp_def, Nat.succ_eq_add_one, hlevel]
      rfl
    · simp only [List.map_map, Function.comp_def, Nat.succ_eq_add_one, hlevel]

theorem subtreeStack_eq_levelStack (cvs : Nat → Cv) (n : Nat) :
    subtreeStack key mode cvs n = levelStack key mode 64 cvs n := (levelStack_eq_map 64 cvs n).symm

/-- The stack after `n` chunks depends on the CVs of those chunks alone. -/
theorem levelStack_congr {bits n : Nat} {cvs cvs' : Nat → Cv} (heq : ∀ i < n, cvs i = cvs' i) :
    levelStack key mode bits cvs n = levelStack key mode bits cvs' n := by
  induction bits generalizing cvs cvs' n with
  | zero => rfl
  | succ bits ih =>
    have hpairs : ∀ i < n / 2, pairCvs key mode cvs i = pairCvs key mode cvs' i := by
      intro i hi
      rw [pairCvs, pairCvs, heq (2 * i) (by omega), heq (2 * i + 1) (by omega)]
    rcases Nat.mod_two_eq_zero_or_one n with heven | hodd
    · rw [levelStack_even heven, levelStack_even heven, ih hpairs]
    · rw [levelStack_odd hodd, levelStack_odd hodd, ih hpairs, heq _ (by omega)]

/-- The push of chunk `n` with total `n + 1` takes the stack of `n` chunks to that of `n + 1` (R127): an odd total puts
the CV on top, an even one merges it with the top and pushes the pair one level up. -/
theorem accPush_levelStack {bits n : Nat} {total : Counter} (cvs : Nat → Cv) (htotal : total.toNat = n + 1)
    (hn : n + 1 < 2 ^ bits) :
    accPush key mode (levelStack key mode bits cvs n) (cvs n) total = levelStack key mode bits cvs (n + 1) := by
  induction bits generalizing cvs n total with
  | zero => omega
  | succ bits ih =>
    cases hpar : total.getLsbD 0 with
    | true =>
      have hodd := toNat_mod_two_of_odd hpar
      have hhalf : (n + 1) / 2 = n / 2 := by omega
      have hlast : (n + 1) / 2 * 2 = n := by omega
      rw [accPush_odd hpar, levelStack_even (by omega), levelStack_odd (n := n + 1) (by omega), hlast, hhalf]
    | false =>
      have heven := toNat_mod_two_of_even hpar
      have hhalf : (n + 1) / 2 = n / 2 + 1 := by omega
      have hpair : parentCv key mode (cvs (n / 2 * 2)) (cvs n) = pairCvs key mode cvs (n / 2) := by
        rw [pairCvs, Nat.mul_comm 2, show n / 2 * 2 + 1 = n by omega]
      rw [levelStack_odd (by omega), accPush_even hpar, hpair, levelStack_even (n := n + 1) (by omega), hhalf,
        ih _ (by rw [toNat_shiftRight_one]; omega) (by omega)]

end

/-! ### The chunk in progress and the stack after any input (R43, R120) -/

theorem makeChunkRoom_cs (h : HashState) :
    (makeChunkRoom h).cs = if h.cs.chunkLen = chunkBytes then newChunk h.hKey (h.cs.ctr + 1) else h.cs := by
  unfold makeChunkRoom
  split <;> rfl

theorem makeChunkRoom_hMode (h : HashState) : (makeChunkRoom h).hMode = h.hMode := by
  unfold makeChunkRoom
  split <;> rfl

theorem makeBlockRoom_cs (h : HashState) :
    (makeBlockRoom h).cs = if h.cs.bufLen.val = blockBytes then compressBlock h.hMode h.cs else h.cs := by
  unfold makeBlockRoom
  split <;> rfl

theorem absorbByte_cs (h : HashState) (x : Byte) :
    (absorbByte h x).cs = appendByte (makeBlockRoom (makeChunkRoom h)).cs x := rfl

/-- What a byte does to CS does not depend on the stack (R117). -/
theorem absorbByte_cs_congr {h h' : HashState} (x : Byte) (hkey : h'.hKey = h.hKey) (hmode : h'.hMode = h.hMode)
    (hcs : h'.cs = h.cs) : (absorbByte h' x).cs = (absorbByte h x).cs := by
  simp only [absorbByte_cs, makeBlockRoom_cs, makeChunkRoom_cs, makeChunkRoom_hMode, hkey, hmode, hcs]

theorem initialHash_totalBytes (key : Cv) (mode : DomainFlags) : (initialHash key mode).cs.totalBytes = 0 := by
  simp [totalBytes_eq, initialHash]

theorem absorb_append (h : HashState) (xs ys : List Byte) : absorb h (xs ++ ys) = absorb (absorb h xs) ys :=
  List.foldl_append

/-- The hash state of a chunk that has just opened, the stack set aside (R110, `chunkCvOf`). -/
def openChunk (key : Cv) (mode : DomainFlags) (ctr : Counter) : HashState where
  hKey := key
  hMode := mode
  cs := newChunk key ctr
  stack := []

/-- A chunk's CV depends on the input up to its own end. -/
theorem chunkCvOf_append (key : Cv) (mode : DomainFlags) (xs ys : List Byte) {i : Nat}
    (hi : 1024 * (i + 1) ≤ xs.length) : chunkCvOf key mode (xs ++ ys) i = chunkCvOf key mode xs i := by
  have hbytes : ((xs ++ ys).drop (1024 * i)).take 1024 = (xs.drop (1024 * i)).take 1024 := by
    rw [List.drop_append_of_le_length (by omega), List.take_append_of_le_length (by rw [List.length_drop]; omega)]
  rw [chunkCvOf, hbytes, chunkCvOf]

/-- Where the engine stands after the input `xs`: the bytes of the complete chunks are in the stack's subtrees, those
after them in CS. -/
structure HoldsInput (key : Cv) (mode : DomainFlags) (xs : List Byte) (h : HashState) : Prop where
  hKey : h.hKey = key
  hMode : h.hMode = mode
  total : h.cs.totalBytes = xs.length
  cs : h.cs = (absorb (openChunk key mode h.cs.ctr) (xs.drop (1024 * h.cs.ctr.toNat))).cs
  stack : h.stack = levelStack key mode 64 (chunkCvOf key mode xs) h.cs.ctr.toNat

section
variable {key : Cv} {mode : DomainFlags} {xs : List Byte} {h : HashState}

theorem HoldsInput.initial (key : Cv) (mode : DomainFlags) : HoldsInput key mode [] (initialHash key mode) where
  hKey := rfl
  hMode := rfl
  total := initialHash_totalBytes key mode
  cs := by rw [List.drop_nil]; rfl
  stack := (levelStack_zero 64 _).symm

/-- The chunk in progress begins within the input. -/
theorem HoldsInput.ctr_le (hold : HoldsInput key mode xs h) : 1024 * h.cs.ctr.toNat ≤ xs.length := by
  have htotal := hold.total
  rw [totalBytes_eq] at htotal
  omega

/-- The CVs of the complete chunks stay when a byte follows. -/
theorem HoldsInput.chunkCvOf_append (hold : HoldsInput key mode xs h) (x : Byte) {i : Nat} (hi : i < h.cs.ctr.toNat) :
    chunkCvOf key mode (xs ++ [x]) i = chunkCvOf key mode xs i := by
  have := hold.ctr_le
  exact Machine.chunkCvOf_append key mode xs [x] (by omega)

/-- A byte that opens no chunk joins the bytes of the chunk in progress. -/
theorem HoldsInput.absorbByte_cs (hold : HoldsInput key mode xs h) (x : Byte) :
    (absorbByte h x).cs = (absorb (openChunk key mode h.cs.ctr) ((xs ++ [x]).drop (1024 * h.cs.ctr.toNat))).cs := by
  rw [List.drop_append_of_le_length hold.ctr_le, absorb_append]
  exact absorbByte_cs_congr x (by rw [hold.hKey, absorb_hKey]; rfl) (by rw [hold.hMode, absorb_hMode]; rfl) hold.cs

/-- A byte that keeps the chunk counter and the stack. -/
theorem HoldsInput.absorbByte_of_same_chunk (hold : HoldsInput key mode xs h) (x : Byte) (hlim : xs.length < 2 ^ 74)
    (hctr : (absorbByte h x).cs.ctr = h.cs.ctr) (hstack : (absorbByte h x).stack = h.stack) :
    HoldsInput key mode (xs ++ [x]) (absorbByte h x) where
  hKey := by rw [absorbByte_hKey, hold.hKey]
  hMode := by rw [absorbByte_hMode, hold.hMode]
  total := by
    rw [absorbByte_totalBytes x (by rw [hold.total]; exact hlim), hold.total, List.length_append, List.length_singleton]
  cs := by rw [hctr]; exact hold.absorbByte_cs x
  stack := by
    rw [hstack, hctr, hold.stack]
    exact levelStack_congr fun i hi => (hold.chunkCvOf_append x hi).symm

/-- A full chunk's CV is that of its bytes in the input (R113, R120). -/
theorem HoldsInput.chunkCv_of_full (hold : HoldsInput key mode xs h) (hfull : xs.length = 1024 * (h.cs.ctr.toNat + 1)) :
    chunkCv h.hMode h.cs = chunkCvOf key mode xs h.cs.ctr.toNat := by
  have hbytes : (xs.drop (1024 * h.cs.ctr.toNat)).take 1024 = xs.drop (1024 * h.cs.ctr.toNat) :=
    List.take_of_length_le (by rw [List.length_drop]; omega)
  rw [chunkCvOf, hbytes, BitVec.ofNat_toNat, BitVec.setWidth_eq, hold.hMode]
  exact congrArg (chunkCv mode) hold.cs

/-- The byte after a full chunk pushes the chunk's CV and opens the next (R119, R120). -/
theorem HoldsInput.absorbByte_of_full (hold : HoldsInput key mode xs h) (x : Byte) (hlim : xs.length < 2 ^ 74)
    (hblocks : h.cs.blocks.val = 15) (hbuf : h.cs.bufLen.val = 64)
    (heq : absorbByte h x = { emitChunk h with cs := appendByte (newChunk h.hKey (h.cs.ctr + 1)) x }) :
    HoldsInput key mode (xs ++ [x]) (absorbByte h x) := by
  have htotal := hold.total
  have hctr := ctr_succ_of_full hblocks hbuf (htotal ▸ hlim)
  have hfull : xs.length = 1024 * (h.cs.ctr.toNat + 1) := by
    rw [← htotal, totalBytes_eq, hblocks, hbuf]
    omega
  have hctr' : (absorbByte h x).cs.ctr = h.cs.ctr + 1 := by rw [heq]; rfl
  refine ⟨by rw [absorbByte_hKey, hold.hKey], by rw [absorbByte_hMode, hold.hMode], ?total, ?cs, ?stack⟩
  case total =>
    rw [absorbByte_totalBytes x (htotal ▸ hlim), htotal, List.length_append, List.length_singleton]
  case cs =>
    rw [hctr', hctr, ← hfull, List.drop_left, heq, hold.hKey]
    rfl
  case stack =>
    have hpush : (absorbByte h x).stack = accPush h.hKey h.hMode h.stack (chunkCv h.hMode h.cs) (h.cs.ctr + 1) := by
      rw [heq]
      rfl
    have hlt := (h.cs.ctr + 1).isLt
    rw [hpush, hold.chunkCv_of_full hfull, hold.hKey, hold.hMode, hold.stack,
      accPush_levelStack _ hctr (hctr ▸ hlt), hctr', hctr]
    exact levelStack_congr fun i hi => (Machine.chunkCvOf_append key mode xs [x] (by omega)).symm

theorem HoldsInput.absorbByte (hold : HoldsInput key mode xs h) (x : Byte) (hlim : xs.length < 2 ^ 74) :
    HoldsInput key mode (xs ++ [x]) (absorbByte h x) := by
  rcases absorbByte_cases h x with ⟨hblocks, hbuf, heq⟩ | ⟨_, _, heq⟩ | ⟨_, heq⟩
  · exact hold.absorbByte_of_full x hlim hblocks hbuf heq
  · exact hold.absorbByte_of_same_chunk x hlim (by rw [heq]; rfl) (by rw [heq])
  · exact hold.absorbByte_of_same_chunk x hlim (by rw [heq]; rfl) (by rw [heq])

end

theorem holdsInput_absorb (key : Cv) (mode : DomainFlags) (xs : List Byte) (hlim : xs.length ≤ 2 ^ 74) :
    HoldsInput key mode xs (absorb (initialHash key mode) xs) := by
  induction xs using List.reverseRecOn with
  | nil => exact .initial key mode
  | append_singleton xs x ih =>
    rw [List.length_append, List.length_singleton] at hlim
    rw [absorb_append]
    exact (ih (by omega)).absorbByte x (by omega)

/-- Settles O43, by induction over the input's bytes (`HoldsInput`). -/
theorem stackHoldsCompleteSubtrees : Obligations.StackHoldsCompleteSubtrees := by
  intro key mode xs hlim h
  rw [subtreeStack_eq_levelStack]
  exact (holdsInput_absorb key mode xs hlim).stack

/-! ### The register map (R18, R32, R39) -/

/-- A register's offset is a multiple of 4 inside the aperture, and it names that register. -/
theorem ofOffset_of_offset {r : Reg} {off : Nat} (hoff : r.offset = some off) :
    off % 4 = 0 ∧ off < 0x2000 ∧ Reg.ofOffset off = r := by
  cases r <;> simp only [Reg.offset, Option.some.injEq, reduceCtorEq] at hoff <;> subst hoff
  case dbuf j =>
    have hj := j.isLt
    refine ⟨by omega, by omega, ?_⟩
    unfold Reg.ofOffset
    grind
  case key i | seedCv i | seedM i | xout i => revert i; decide
  case laneCtrLo k | laneCtrHi k | laneBlen k | laneFlags k => revert k; decide
  case laneCv k i | laneM k i | res k i => revert k i; decide
  all_goals decide

theorem offset_ofLaneOffset {k : Fin 4} {rel off : Nat} (h4 : rel % 4 = 0) :
    (Reg.ofLaneOffset k rel).offset = some off → off = 0x0200 + 0x80 * k.val + rel := by
  fun_cases Reg.ofLaneOffset k rel <;> intro hoff <;>
    simp only [Reg.offset, Option.some.injEq, reduceCtorEq] at hoff <;> omega

/-- Where an aligned offset names a register that has an offset, it is that offset. -/
theorem offset_ofOffset {off off' : Nat} (h4 : off % 4 = 0) : (Reg.ofOffset off).offset = some off' → off' = off := by
  fun_cases Reg.ofOffset off <;> intro hoff
  case case23 =>
    have hlane := offset_ofLaneOffset (by omega) hoff
    dsimp only at hlane
    omega
  all_goals simp only [Reg.offset, Option.some.injEq, reduceCtorEq] at hoff
  all_goals omega

theorem exists_offset_of_ne_reserved {r : Reg} (hr : r ≠ .reserved) : ∃ off, r.offset = some off := by
  cases r with
  | reserved => exact absurd rfl hr
  | _ => exact ⟨_, rfl⟩

/-- Settles O15: `offset` and `ofOffset` undo each other off the reserved offsets. -/
theorem registerMapIsExact : Obligations.RegisterMapIsExact := by
  refine ⟨fun r off hoff => ofOffset_of_offset hoff, fun off h4 _ hr => ?_⟩
  obtain ⟨off', hoff⟩ := exists_offset_of_ne_reserved hr
  rw [hoff, offset_ofOffset h4 hoff]

/-! ### Aligned 32-bit accesses inside the aperture (R59) -/

section
variable {off : Nat} (v : Word) (s : State)

theorem busWrite_of_aligned (h4 : off % 4 = 0) (hlt : off < 0x2000) :
    busWrite 32 off v s = .next (writeRegister (Reg.ofOffset off) v s) := by
  simp [busWrite, validAccess, h4, hlt]

theorem busRead_of_aligned (h4 : off % 4 = 0) (hlt : off < 0x2000) :
    busRead 32 off s = .next (drawn (reply (busValue (Reg.ofOffset off) s) s)) := by
  simp [busRead, validAccess, h4, hlt]

theorem busWrite_status : busWrite 32 0x0008 v s = .next (writeStatus v s) := by
  rw [busWrite_of_aligned v s (by decide) (by decide), ofOffset_status]
  simp [writeRegister, Reg.refusedWhileBusy, writeReg]

end

/-! ### Writes that are ignored (R38, R39) -/

/-- A write to a register that takes none of its own, and is not refused, changes nothing. -/
theorem writeRegister_ignored {r : Reg} {v : Word} {s : State} (hrefused : r.refusedWhileBusy = false)
    (hstatus : r ≠ .status) (hirq : r ≠ .irqEn) : writeRegister r v s = s := by
  rw [writeRegister, hrefused, Bool.and_false]
  exact writeReg_ignored hrefused hstatus hirq

/-- The registers at the read-only offsets of R18 but STATUS. -/
theorem ofOffset_readOnly {off : Nat}
    (hro : off = 0x0000 ∨ (0x0048 ≤ off ∧ off < 0x0058) ∨ (0x0068 ≤ off ∧ off < 0x0070) ∨
      (0x0080 ≤ off ∧ off < 0x00A0) ∨ (0x00C0 ≤ off ∧ off < 0x0140) ∨ (0x0400 ≤ off ∧ off < 0x0500)) :
    (Reg.ofOffset off).refusedWhileBusy = false ∧ Reg.ofOffset off ≠ .status ∧ Reg.ofOffset off ≠ .irqEn := by
  fun_cases Reg.ofOffset off <;>
    simp only [Reg.refusedWhileBusy, ne_eq, reduceCtorEq, not_false_eq_true, and_self, not_true_eq_false, and_false,
      and_true]
  all_goals omega

/-- Settles O13, from the registers at the read-only offsets and the effect of a STATUS write. -/
theorem readOnlyWritesIgnored : Obligations.ReadOnlyWritesIgnored := by
  refine ⟨?readOnly, ?noClear, ?fields⟩
  case readOnly =>
    intro off v s h4 hro
    obtain ⟨hrefused, hstatus, hirq⟩ := ofOffset_readOnly hro
    rw [busWrite_of_aligned v s h4 (by omega), writeRegister_ignored hrefused hstatus hirq]
  case noClear =>
    intro v s h1 h2
    rw [busWrite_status, writeStatus, h1, h2, Bool.not_false, Bool.and_true]
    rfl
  case fields =>
    intro v s t hw
    rw [busWrite_status] at hw
    cases hw
    exact ⟨rfl, rfl, fun h2 => by rw [State.errCode, writeStatus_err, h2]; rfl⟩

/-! ### STATUS (R21, R152) -/

/-- STATUS bit by bit. -/
theorem statusWord_getLsbD (busy done err seedValid : Bool) (code : BitVec 4) (i : Nat) :
    (statusWord busy done err seedValid code).getLsbD i =
      if i = 0 then busy else if i = 1 then done else if i = 2 then err else if i = 3 then seedValid
      else if 8 ≤ i then code.getLsbD (i - 8) else false := by
  simp only [statusWord, BitVec.getLsbD_append, BitVec.getLsbD_ofBool]
  by_cases hlow : i < 12
  · interval_cases i <;> rfl
  · have hcode : code.getLsbD (i - 8) = false := BitVec.getLsbD_of_ge code _ (by omega)
    rw [if_neg (by omega), if_neg (by omega), if_neg (by omega), if_neg (by omega), if_neg (by omega),
      if_neg (by omega), if_neg (by omega), if_pos (by omega), hcode]
    exact BitVec.getLsbD_zero

theorem statusWord_getLsbD_high (busy done err seedValid : Bool) (code : BitVec 4) {i : Nat} (hi : 12 ≤ i) :
    (statusWord busy done err seedValid code).getLsbD i = false := by
  rw [statusWord_getLsbD, if_neg (by omega), if_neg (by omega), if_neg (by omega), if_neg (by omega),
    if_pos (by omega)]
  exact BitVec.getLsbD_of_ge code _ (by omega)

/-- The fields of STATUS above its four bits: ERR_CODE, and 0 below and above it (R21). -/
theorem statusWord_fields (busy done err seedValid : Bool) (code : BitVec 4) :
    (statusWord busy done err seedValid code).extractLsb' 4 4 = 0 ∧
    (statusWord busy done err seedValid code).extractLsb' 8 4 = code ∧
    (statusWord busy done err seedValid code).extractLsb' 12 20 = 0 := by
  refine ⟨?_, ?_, ?_⟩ <;> apply BitVec.eq_of_getLsbD_eq <;> intro i hi <;> rw [BitVec.getLsbD_extractLsb']
  · rw [statusWord_getLsbD]
    interval_cases i <;> rfl
  · rw [statusWord_getLsbD]
    interval_cases i <;> rfl
  · rw [statusWord_getLsbD_high _ _ _ _ _ (by omega), Bool.and_false]
    exact BitVec.getLsbD_zero.symm

/-- Settles O18, from the bits of `statusWord` and the effect of a STATUS write. -/
theorem statusFieldsAndW1c : Obligations.StatusFieldsAndW1c := by
  refine ⟨fun s => ?fields, fun v s => ?write, rfl⟩
  case fields =>
    obtain ⟨hlow, hcode, hhigh⟩ := statusWord_fields s.busy s.done s.errBit s.seedValid s.errCode
    refine ⟨statusWord_getLsbD .., statusWord_getLsbD .., statusWord_getLsbD .., statusWord_getLsbD .., hlow, ?_, hhigh⟩
    rw [readReg, State.status, hcode, State.errCode]
    rcases s.err with _ | e
    · rfl
    · cases e <;> rfl
  case write =>
    rw [busWrite_status, writeStatus]
    cases v.getLsbD 1 <;> simp

/-! ### Reserved offsets and fields (R39) -/

theorem ofLaneOffset_reserved (k : Fin 4) {rel : Nat} (hrel : 0x70 ≤ rel) : Reg.ofLaneOffset k rel = .reserved := by
  fun_cases Reg.ofLaneOffset k rel
  case case7 => rfl
  all_goals omega

/-- The offsets of R18 that no register has. -/
theorem ofOffset_reserved {off : Nat}
    (hoff : (0x0014 ≤ off ∧ off < 0x0020) ∨ (0x0058 ≤ off ∧ off < 0x0068) ∨ (0x0070 ≤ off ∧ off < 0x0080) ∨
      (0x00A0 ≤ off ∧ off < 0x00C0) ∨ (0x0140 ≤ off ∧ off < 0x0200) ∨
      (0x0200 ≤ off ∧ off < 0x0400 ∧ 0x70 ≤ (off - 0x0200) % 0x80) ∨ (0x0500 ≤ off ∧ off < 0x1000)) :
    Reg.ofOffset off = .reserved := by
  fun_cases Reg.ofOffset off
  case case6 | case14 | case17 | case19 | case22 | case25 | case27 => rfl
  case case23 => exact ofLaneOffset_reserved _ (by omega)
  all_goals omega

/-- While BUSY a register that the engine does not write reads its true value, STATUS aside; while idle every one does
(R46). -/
theorem busValue_true {r : Reg} {s : State} (hr : s.busy = false ∨ (r.engineWritten = false ∧ r ≠ .status)) :
    busValue r s = readReg r s := by
  rcases hr with hidle | ⟨hwritten, hstatus⟩
  · rw [busValue, hidle]
    rfl
  · simp [busValue, hwritten, hstatus]

/-- The low `n` bits of a word, the others 0, are the word under the mask of those bits. -/
theorem setWidth_setWidth_eq_and (v : Word) {n : Nat} {mask : Word} (hmask : mask.toNat = 2 ^ n - 1) (hn : n ≤ 32) :
    (v.setWidth n).setWidth 32 = v &&& mask := by
  apply BitVec.eq_of_toNat_eq
  have hlt : v.toNat % 2 ^ n < 2 ^ 32 :=
    lt_of_lt_of_le (Nat.mod_lt _ (Nat.two_pow_pos n)) (Nat.pow_le_pow_right (by decide) hn)
  rw [BitVec.toNat_setWidth, BitVec.toNat_setWidth, BitVec.toNat_and, hmask, Nat.and_two_pow_sub_one_eq_mod,
    Nat.mod_eq_of_lt hlt]

/-- The bits outside a mask of the low `n` bits do not matter to a register of `n` bits. -/
theorem setWidth_and_mask (v : Word) {n : Nat} {mask : Word} (hmask : mask.toNat = 2 ^ n - 1) :
    (v &&& mask).setWidth n = v.setWidth n := by
  apply BitVec.eq_of_toNat_eq
  rw [BitVec.toNat_setWidth, BitVec.toNat_setWidth, BitVec.toNat_and, hmask, Nat.and_two_pow_sub_one_eq_mod,
    Nat.mod_mod]

/-- A value of `n` bits has no bit under a mask of higher ones. -/
theorem setWidth_and_eq_zero {n : Nat} (x : BitVec n) {mask : Word} (hmask : ∀ i < n, mask.getLsbD i = false) :
    x.setWidth 32 &&& mask = 0 := by
  apply BitVec.eq_of_getLsbD_eq
  intro i _
  rw [BitVec.getLsbD_and, BitVec.getLsbD_setWidth]
  by_cases hin : i < n
  · rw [hmask i hin, Bool.and_false]
    exact BitVec.getLsbD_zero.symm
  · rw [BitVec.getLsbD_of_ge x i (by omega), Bool.and_false, Bool.false_and]
    exact BitVec.getLsbD_zero.symm

theorem statusWord_and_reserved (busy done err seedValid : Bool) (code : BitVec 4) :
    statusWord busy done err seedValid code &&& 0xFFFFF0F0 = 0 := by
  apply BitVec.eq_of_getLsbD_eq
  intro i hi
  rw [BitVec.getLsbD_and]
  by_cases hcode : i < 12
  · rw [statusWord_getLsbD]
    interval_cases i <;> simp
  · rw [statusWord_getLsbD_high _ _ _ _ _ (by omega), Bool.false_and]
    exact BitVec.getLsbD_zero.symm

/-- STATUS as the bus shows it is a STATUS word, whatever the draw (R46). -/
theorem busValue_status (s : State) :
    busValue .status s = statusWord s.busy s.done s.errBit
      (if s.busy then (Config.busyRead s.draws).getLsbD 3 else s.seedValid) s.errCode := by
  cases hb : s.busy <;> simp [busValue, hb, Reg.engineWritten, statusWhileBusy, readReg, State.status]

/-- Settles O14: what stands at the reserved offsets, and the masks of the fields a register implements. -/
theorem reservedReadsZero : Obligations.ReservedReadsZero := by
  refine ⟨?offsets, ?fieldsRead, ?fieldsWritten⟩
  case offsets =>
    intro off v s h4 hoff
    have hreg := ofOffset_reserved hoff
    have hlt : off < 0x2000 := by omega
    rw [busWrite_of_aligned v s h4 hlt, busRead_of_aligned s h4 hlt, hreg,
      writeRegister_ignored (by decide) (by decide) (by decide), busValue_true (.inr (by decide))]
    exact ⟨rfl, _, rfl, by simp [readReg], by simp⟩
  case fieldsRead =>
    intro s
    rw [busValue_status, busValue_true (r := .irqEn) (.inr (by decide)), busValue_true (r := .mode) (.inr (by decide))]
    refine ⟨statusWord_and_reserved .., setWidth_and_eq_zero s.irqEn (by decide), setWidth_and_eq_zero s.mode (by decide),
      fun k => ?_⟩
    rw [busValue_true (.inr ⟨rfl, Reg.noConfusion⟩)]
    exact setWidth_and_eq_zero s.lanes[k].flags (by decide)
  case fieldsWritten =>
    intro v s
    refine ⟨?_, ?_, ?_, fun k => ?_⟩
    · simp [writeRegister, Reg.refusedWhileBusy, writeReg, writeStatus]
    · simp only [writeRegister, writeReg, setWidth_and_mask v (n := 2) (mask := 0x00000003) rfl]
    · simp only [writeRegister, writeReg, setWidth_and_mask v (n := 8) (mask := 0x000000FF) rfl]
    · simp only [writeRegister, writeReg, setWidth_and_mask v (n := 8) (mask := 0x000000FF) rfl]

/-! ### Reads while BUSY (R19, R46) -/

/-- The offsets of R46 name engine-written registers. -/
theorem ofOffset_engineWritten {off : Nat}
    (hoff : (0x0040 ≤ off ∧ off < 0x0058) ∨ (0x0068 ≤ off ∧ off < 0x0070) ∨ (0x0080 ≤ off ∧ off < 0x00A0) ∨
      (0x00C0 ≤ off ∧ off < 0x0140) ∨ (0x0400 ≤ off ∧ off < 0x0500)) :
    (Reg.ofOffset off).engineWritten = true := by
  fun_cases Reg.ofOffset off <;> simp only [Reg.engineWritten, reduceCtorEq]
  all_goals omega

theorem busy_of_pending {s : State} (hp : s.pending ≠ none) : s.busy = true := Option.isSome_iff_ne_none.mpr hp

theorem drawn_of_busy {s : State} (hb : s.busy = true) : drawn s = { s with draws := s.draws + 1 } := by
  rw [drawn, if_pos hb]

theorem drawn_of_idle {s : State} (hb : s.busy = false) : drawn s = s := by
  rw [drawn, hb]
  rfl

theorem busValue_of_engineWritten {r : Reg} {s : State} (hb : s.busy = true) (hr : r.engineWritten = true) :
    busValue r s = Config.busyRead s.draws := by
  rw [busValue, if_pos hb, if_pos hr]

/-- STATUS on the bus is STATUS but for SEED_VALID, bit 3 (R46). -/
theorem busValue_status_and (s : State) :
    busValue .status s &&& 0xFFFFFFF7 = readReg .status s &&& 0xFFFFFFF7 := by
  rw [busValue_status, readReg, State.status]
  apply BitVec.eq_of_getLsbD_eq
  intro i _
  rw [BitVec.getLsbD_and, BitVec.getLsbD_and, statusWord_getLsbD, statusWord_getLsbD]
  by_cases h3 : i = 3
  · subst h3
    rw [show (0xFFFFFFF7 : Word).getLsbD 3 = false from rfl, Bool.and_false, Bool.and_false]
  · rw [if_neg h3, if_neg h3]

/-- The registers of the map that the engine does not write (R46). -/
theorem not_engineWritten_of_offset {r : Reg} {off : Nat} (hoff : r.offset = some off)
    (hr : r = .id ∨ r = .cmd ∨ r = .irqEn ∨ r = .mode ∨ 0x1000 ≤ off ∨ (0x0020 ≤ off ∧ off < 0x0040) ∨
      (0x0200 ≤ off ∧ off < 0x0400)) : r.engineWritten = false ∧ r ≠ .status := by
  cases r <;> simp only [Reg.offset, Option.some.injEq, reduceCtorEq, false_or] at hoff hr <;>
    simp only [Reg.engineWritten, ne_eq, reduceCtorEq, not_false_eq_true, and_self, not_true_eq_false, and_false,
      false_and]
  all_goals omega

/-- Settles O21, by what `busValue` answers for each kind of register. -/
theorem busyReadsAreFreeValues : Obligations.BusyReadsAreFreeValues := by
  refine ⟨?engineWritten, ?status, ?trueValue, ?idle⟩
  case engineWritten =>
    intro off s hp h4 hoff
    have hb := busy_of_pending hp
    rw [busRead_of_aligned s h4 (by omega), busValue_of_engineWritten hb (ofOffset_engineWritten hoff),
      drawn_of_busy (s := reply _ s) hb]
    rfl
  case status =>
    intro s hp
    have hb := busy_of_pending hp
    refine ⟨busValue .status s, ?_, busValue_status_and s⟩
    rw [busRead_of_aligned s (by decide) (by decide), ofOffset_status, drawn_of_busy (s := reply _ s) hb]
    rfl
  case trueValue =>
    intro r off s hoff hr
    obtain ⟨h4, hlt, hreg⟩ := ofOffset_of_offset hoff
    rw [busRead_of_aligned s h4 hlt, hreg, busValue_true (.inr (not_engineWritten_of_offset hoff hr))]
    exact ⟨_, rfl, by simp⟩
  case idle =>
    intro r off s hoff hp
    obtain ⟨h4, hlt, hreg⟩ := ofOffset_of_offset hoff
    have hb := busy_eq_false_iff.mpr hp
    rw [busRead_of_aligned s h4 hlt, hreg, busValue_true (.inl hb), drawn_of_idle (s := reply _ s) hb]
    rfl

/-- Settles O19: ID has no storage. -/
theorem idReadsConstant : Obligations.IdReadsConstant := by
  refine ⟨fun s => ?_, by decide, fun i s t _ => rfl⟩
  rw [busRead_of_aligned s (by decide) (by decide), busValue_true (.inr (by decide))]
  exact ⟨_, rfl, by simp [Reg.ofOffset, readReg, idWord]⟩

/-! ### A write reaches one register (R22 to R25, R32, R35) -/

/-- The registers a bus write gives a value to (R18): IRQ_EN and those R151 refuses while BUSY, CMD aside. -/
def Reg.readWrite (r : Reg) : Prop := r = .irqEn ∨ (r ≠ .cmd ∧ r.refusedWhileBusy = true)

/-- The bits a read-write register implements, the others reserved (R22, R23, R32). -/
def Reg.writtenBits : Reg → Word
  | .irqEn => 0x00000003
  | .mode => 0x000000FF
  | .laneFlags _ => 0x000000FF
  | _ => 0xFFFFFFFF

theorem and_fullMask (v : Word) : v &&& 0xFFFFFFFF = v := BitVec.and_allOnes

theorem dbufWord_writeWord_same (s : State) (j : Nat) (v : Word) :
    dbufWord { s with dbuf := dbufWriteWord s.dbuf j v } j = v := by
  simp [dbufWord, dbufByte_writeWord, le32_wordByte]

/-- A DBUF word write leaves every byte that is not in the word (R55). -/
theorem dbufByte_writeWord_other (s : State) {j a : Nat} (v : Word) (ha : a / 4 ≠ j) :
    dbufByte { s with dbuf := dbufWriteWord s.dbuf j v } a = dbufByte s a := by
  rw [dbufByte_writeWord, if_neg (by omega), if_neg (by omega), if_neg (by omega), if_neg (by omega)]

theorem dbufWord_writeWord_other (s : State) {i j : Nat} (v : Word) (hij : i ≠ j) :
    dbufWord { s with dbuf := dbufWriteWord s.dbuf j v } i = dbufWord s i := by
  rw [dbufWord, dbufByte_writeWord_other s v (by omega), dbufByte_writeWord_other s v (by omega),
    dbufByte_writeWord_other s v (by omega), dbufByte_writeWord_other s v (by omega), ← dbufWord]

/-- A written register reads back the bits it implements. -/
theorem readReg_writeReg_same {r : Reg} (v : Word) (s : State) (hr : r.readWrite) :
    readReg r (writeReg r v s) = v &&& r.writtenBits := by
  cases r
  case irqEn | mode => exact setWidth_setWidth_eq_and v rfl (by decide)
  case laneFlags k =>
    have hread : readReg (.laneFlags k) (writeReg (.laneFlags k) v s) = (v.setWidth 8).setWidth 32 := by
      simp [readReg, writeReg]
    exact hread.trans (setWidth_setWidth_eq_and v rfl (by decide))
  case dbuf j => exact (dbufWord_writeWord_same s j v).trans (and_fullMask v).symm
  all_goals
    refine Eq.trans ?_ (and_fullMask v).symm
    simp [Reg.readWrite, Reg.refusedWhileBusy, readReg, writeReg] at hr ⊢

/-- What a register shows of bank `k`: its value where it is a register of that bank (R32). -/
def Reg.laneView : Reg → Fin 4 → LaneBank → Option Word
  | .laneCv k' i, k, b => if k' = k then some b.cv[i] else none
  | .laneM k' i, k, b => if k' = k then some b.m[i] else none
  | .laneCtrLo k', k, b => if k' = k then some b.ctrLo else none
  | .laneCtrHi k', k, b => if k' = k then some b.ctrHi else none
  | .laneBlen k', k, b => if k' = k then some b.blockLen else none
  | .laneFlags k', k, b => if k' = k then some (b.flags.setWidth 32) else none
  | _, _, _ => none

/-- Replacing a bank changes no register whose view of the bank is the same. -/
theorem readReg_setLane {r : Reg} {k : Fin 4} {f : LaneBank → LaneBank} {s : State}
    (hview : r.laneView k (f s.lanes[k]) = r.laneView k s.lanes[k]) : readReg r (setLane k f s) = readReg r s := by
  cases r
  case laneCv k' i | laneM k' i | laneCtrLo k' | laneCtrHi k' | laneBlen k' | laneFlags k' =>
    by_cases hk : k' = k
    · subst hk
      simpa [Reg.laneView, readReg] using hview
    · simp [readReg, Fin.val_ne_of_ne (Ne.symm hk)]
  all_goals rfl

/-- A word of a vector written at another index. -/
theorem vector_set_getElem_ne {n : Nat} (ws : Vector Word n) {i j : Fin n} (v : Word) (hij : j ≠ i) :
    (ws.set i v)[j] = ws[j] := Vector.getElem_set_ne i.isLt j.isLt (Fin.val_ne_of_ne hij.symm)

/-- A write to a read-write register leaves every other register as it reads, the other half of a counter too. -/
theorem readReg_writeReg_other {r r' : Reg} (v : Word) (s : State) (hr : r.readWrite) (hne : r' ≠ r) :
    readReg r' (writeReg r v s) = readReg r' s := by
  cases r
  case irqEn =>
    cases r' with
    | irqEn => exact absurd rfl hne
    | _ => rfl
  case mode =>
    cases r' with
    | mode => exact absurd rfl hne
    | _ => rfl
  case key i =>
    cases r' with
    | key j => exact vector_set_getElem_ne s.key v fun hj => hne (congrArg Reg.key hj)
    | _ => rfl
  case xofCtrLo =>
    cases r' with
    | xofCtrLo => exact absurd rfl hne
    | xofCtrHi => exact ctrHigh_ctrOf ..
    | _ => rfl
  case xofCtrHi =>
    cases r' with
    | xofCtrHi => exact absurd rfl hne
    | xofCtrLo => exact ctrLow_ctrOf ..
    | _ => rfl
  case laneCv k i =>
    refine readReg_setLane ?_
    cases r' with
    | laneCv k' j =>
      exact ite_congr rfl
        (fun hk => congrArg some (vector_set_getElem_ne _ v fun hj => hne (by rw [hk, hj]))) fun _ => rfl
    | _ => rfl
  case laneM k i =>
    refine readReg_setLane ?_
    cases r' with
    | laneM k' j =>
      exact ite_congr rfl
        (fun hk => congrArg some (vector_set_getElem_ne _ v fun hj => hne (by rw [hk, hj]))) fun _ => rfl
    | _ => rfl
  case laneCtrLo k | laneCtrHi k | laneBlen k | laneFlags k =>
    refine readReg_setLane ?_
    cases r' <;> simp_all [Reg.laneView]
  case dbuf j =>
    cases r' with
    | dbuf i => exact dbufWord_writeWord_other s v fun hij => hne (congrArg Reg.dbuf (Fin.ext hij))
    | _ => rfl
  all_goals simp [Reg.readWrite, Reg.refusedWhileBusy] at hr

/-- A write to a read-write register starts no command and touches neither ERR nor DONE. -/
theorem writeReg_readWrite_control {r : Reg} (v : Word) (s : State) (hr : r.readWrite) :
    (writeReg r v s).pending = s.pending ∧ (writeReg r v s).err = s.err ∧ (writeReg r v s).done = s.done := by
  cases r
  case cmd | status => simp [Reg.readWrite, Reg.refusedWhileBusy] at hr
  all_goals exact ⟨rfl, rfl, rfl⟩

theorem writeRegister_of_idle (r : Reg) (v : Word) {s : State} (hp : s.pending = none) :
    writeRegister r v s = writeReg r v s := by
  rw [writeRegister, busy_eq_false_iff.mpr hp]
  rfl

/-- Settles O16: the written register, the other registers, and the rest of the state. -/
theorem writeReachesOneRegister : Obligations.WriteReachesOneRegister := by
  intro r v s hp hr t
  obtain ⟨hpend, herr, hdone⟩ := writeReg_readWrite_control v s hr
  have ht : t = writeReg r v s := writeRegister_of_idle r v hp
  rw [ht]
  refine ⟨(readReg_writeReg_same v s hr).trans ?_, fun r' hne => readReg_writeReg_other v s hr hne,
    writeReg_hash r v s, hpend.trans hp, herr, hdone⟩
  cases r <;> rfl

/-! ### Which event may change which state (R31 to R37, R42, R49) -/

/-- Everything a step can do but for reset: the pending command ran, a register was written, or nothing changed but ERR
and the model's own record of inputs, replies and draws. -/
theorem step_cases_of_no_reset {s t : State} (hstep : step s = .next t) (hreset : ∀ rest, s.inputs ≠ .reset :: rest) :
    (∃ i rest, s.pending = some i ∧ exec i { s with inputs := rest } = .next t) ∨
    (∃ off v rest, s.inputs = .write 32 off v :: rest ∧ off % 4 = 0 ∧
      t = writeRegister (Reg.ofOffset off) v { s with inputs := rest }) ∨
    t = { s with err := t.err, inputs := t.inputs, replies := t.replies, draws := t.draws } := by
  rcases step_cases hstep with ⟨i, rest, hp, _, hexec⟩ | ⟨rest, _, _, rfl⟩ | ⟨width, off, v, rest, hin, hw⟩ |
    ⟨width, off, rest, _, hr⟩ | ⟨rest, hin, _⟩
  · exact .inl ⟨i, rest, hp, hexec⟩
  · exact .inr (.inr rfl)
  · rcases busWrite_next hw with ⟨_, ⟨hvalid, rfl⟩ | ⟨_, rfl⟩⟩
    · simp only [validAccess, Bool.and_eq_true, decide_eq_true_eq] at hvalid
      obtain ⟨rfl, h4⟩ := hvalid
      exact .inr (.inl ⟨off, v, rest, hin, h4, rfl⟩)
    · right; right
      rcases recordError_cases .bus { s with inputs := rest } with ⟨_, e⟩ | ⟨_, e⟩ <;> rw [e]
  · right; right
    rcases busRead_next hr with ⟨_, ⟨_, rfl⟩ | ⟨_, rfl⟩⟩
    · unfold drawn
      split <;> rfl
    · rcases recordError_cases .bus { s with inputs := rest } with ⟨_, e⟩ | ⟨_, e⟩ <;> rw [e] <;> rfl
  · exact absurd hin (hreset rest)

/-! #### What each command writes -/

section
variable {i : Instr} {s t : State}

theorem exec_pending (hexec : exec i s = .next t) : t.pending = none := by
  cases i <;> cases hexec <;> rfl

theorem exec_lanes (hexec : exec i s = .next t) : t.lanes = s.lanes := by
  cases i <;> cases hexec <;> rfl

theorem exec_key (hexec : exec i s = .next t) : t.key = s.key := by
  cases i <;> cases hexec <;> rfl

theorem exec_mode (hexec : exec i s = .next t) : t.mode = s.mode := by
  cases i <;> cases hexec <;> rfl

theorem exec_dbufByte (hexec : exec i s = .next t) (a : Nat) : dbufByte t a = dbufByte s a := by
  cases i <;> cases hexec <;> rfl

theorem exec_xout (hexec : exec i s = .next t) (hne : t.xout ≠ s.xout) : i = .xof := by
  cases i <;> cases hexec
  case xof => rfl
  all_goals exact absurd rfl hne

theorem exec_res (hexec : exec i s = .next t) (hne : t.res ≠ s.res) : i = .compress ∨ i = .compress4 := by
  cases i <;> cases hexec
  case compress => exact .inl rfl
  case compress4 => exact .inr rfl
  all_goals exact absurd rfl hne

theorem exec_seed (hexec : exec i s = .next t) (hne : t.seed ≠ s.seed) : i = .finalize := by
  cases i <;> cases hexec
  case finalize => rfl
  all_goals exact absurd rfl hne

theorem exec_seedValid (hexec : exec i s = .next t) (hne : t.seedValid ≠ s.seedValid) : i = .finalize ∨ i = .init := by
  cases i <;> cases hexec
  case finalize => exact .inl rfl
  case init => exact .inr rfl
  all_goals exact absurd rfl hne

theorem exec_hash (hexec : exec i s = .next t) (hne : t.hash ≠ s.hash) :
    i = .init ∨ ∃ off len, i = .update off len := by
  cases i <;> cases hexec
  case init => exact .inl rfl
  case update off len => exact .inr ⟨off, len, rfl⟩
  all_goals exact absurd rfl hne

/-- Only INIT latches the key and the mode of a hash; UPDATE keeps those it has (R36). -/
theorem exec_hKey_hMode (hexec : exec i s = .next t) :
    (i = .init ∧ t.hash.hKey = s.key ∧ t.hash.hMode = s.mode) ∨
    (t.hash.hKey = s.hash.hKey ∧ t.hash.hMode = s.hash.hMode) := by
  cases i <;> cases hexec
  case init => exact .inl ⟨rfl, rfl, rfl⟩
  case update off len => exact .inr ⟨absorb_hKey .., absorb_hMode ..⟩
  all_goals exact .inr ⟨rfl, rfl⟩

end

/-- Settles O50: a bus write leaves the hash state, and of the commands INIT alone sets H_KEY and H_MODE. -/
theorem hashKeyBindsAtInit : Obligations.HashKeyBindsAtInit := by
  intro s t hstep hne
  by_cases hreset : ∃ rest, s.inputs = .reset :: rest
  · obtain ⟨rest, hin⟩ := hreset
    simp only [step, hin] at hstep
    cases hstep
    exact .inr ⟨⟨rest, hin⟩, rfl, rfl⟩
  · rcases step_cases_of_no_reset hstep (not_exists.mp hreset) with
      ⟨i, rest, hp, hexec⟩ | ⟨off, v, rest, _, _, rfl⟩ | heq
    · rcases exec_hKey_hMode hexec with ⟨rfl, hkey, hmode⟩ | ⟨hkey, hmode⟩
      · exact .inl ⟨hp, hkey, hmode⟩
      · exact absurd hne (by simp [hkey, hmode])
    · exact absurd hne (by simp)
    · exact absurd hne (by rw [heq]; simp)

/-! #### What each register write changes -/

section
variable {r : Reg} {v : Word} {s : State}

/-- A register write that changes a field errors do not touch was performed, so a target that R151 refuses while BUSY
found the engine idle. -/
theorem performed_of_writeRegister_ne {α : Type} (field : State → α)
    (herror : ∀ (e : ErrorCode) (u : State), field (recordError e u) = field u)
    (hne : field (writeRegister r v s) ≠ field s) :
    field (writeReg r v s) ≠ field s ∧ (r.refusedWhileBusy = true → s.pending = none) := by
  rcases writeRegister_cases r v s with ⟨_, _, hw⟩ | ⟨hidle, hw⟩ <;> rw [hw] at hne
  · exact absurd (herror .busy s) hne
  · refine ⟨hne, fun hr => ?_⟩
    rw [hr] at hidle
    exact busy_eq_false_iff.mp (hidle.resolve_right nofun)

/-- Only the lane registers write the lane banks (R32). -/
theorem writeRegister_lanes_ne (hne : (writeRegister r v s).lanes ≠ s.lanes) :
    s.pending = none ∧ ∃ off, r.offset = some off ∧ 0x0200 ≤ off ∧ off < 0x0400 := by
  obtain ⟨hchanged, hidle⟩ := performed_of_writeRegister_ne State.lanes recordError_lanes hne
  cases r
  case laneCv k i | laneM k i | laneCtrLo k | laneCtrHi k | laneBlen k | laneFlags k =>
    exact ⟨hidle rfl, _, rfl, by omega, by omega⟩
  case cmd => exact absurd (submit_lanes v s) hchanged
  all_goals exact absurd rfl hchanged

/-- Only the KEY registers write KEY (R24). -/
theorem writeRegister_key_ne (hne : (writeRegister r v s).key ≠ s.key) :
    s.pending = none ∧ ∃ off, r.offset = some off ∧ 0x0020 ≤ off ∧ off < 0x0040 := by
  obtain ⟨hchanged, hidle⟩ := performed_of_writeRegister_ne State.key recordError_key hne
  cases r
  case key i => exact ⟨hidle rfl, _, rfl, by omega, by omega⟩
  case cmd => exact absurd (submit_key v s) hchanged
  all_goals exact absurd rfl hchanged

/-- Only the MODE register writes MODE (R23). -/
theorem writeRegister_mode_ne (hne : (writeRegister r v s).mode ≠ s.mode) :
    s.pending = none ∧ r.offset = some 0x0010 := by
  obtain ⟨hchanged, hidle⟩ := performed_of_writeRegister_ne State.mode recordError_mode hne
  cases r
  case mode => exact ⟨hidle rfl, rfl⟩
  case cmd => exact absurd (submit_mode v s) hchanged
  all_goals exact absurd rfl hchanged

/-- Only the write of its own word changes a byte of DBUF (R35, R55). -/
theorem writeRegister_dbufByte_ne {a : Nat} (hne : dbufByte (writeRegister r v s) a ≠ dbufByte s a) :
    s.pending = none ∧ ∃ off, r.offset = some off ∧ off ≤ 0x1000 + a ∧ 0x1000 + a < off + 4 := by
  obtain ⟨hchanged, hidle⟩ := performed_of_writeRegister_ne (dbufByte · a)
    (fun e u => dbufByte_congr (recordError_dbuf e u) (recordError_resets e u) a) hne
  cases r
  case dbuf j =>
    have hword : a / 4 = j.val := by
      by_contra hother
      exact hchanged (dbufByte_writeWord_other s v hother)
    exact ⟨hidle rfl, _, rfl, by omega, by omega⟩
  case cmd => exact absurd (dbufByte_congr (submit_dbuf v s) (submit_resets v s) a) hchanged
  all_goals exact absurd rfl hchanged

end

/-- What only commands write: not the bus, and no event between (R31, R34, R42). -/
theorem command_of_field_ne {α : Type} {s t : State} (field : State → α)
    (hstep : step s = .next t) (hreset : ∀ rest, s.inputs ≠ .reset :: rest)
    (hown : ∀ (u : State) e l p d, field { u with err := e, inputs := l, replies := p, draws := d } = field u)
    (hwrite : ∀ (r : Reg) (v : Word) (u : State), field (writeRegister r v u) = field u)
    (hne : field t ≠ field s) :
    ∃ i rest, s.pending = some i ∧ exec i { s with inputs := rest } = .next t := by
  rcases step_cases_of_no_reset hstep hreset with hrun | ⟨off, v, rest, _, _, rfl⟩ | heq
  · exact hrun
  · rw [hwrite] at hne
    exact absurd (hown s s.err rest s.replies s.draws) hne
  · rw [heq, hown] at hne
    exact absurd rfl hne

/-- What only bus writes change: no command, and no event between (R32, R35). -/
theorem write_of_field_ne {α : Type} {s t : State} (field : State → α)
    (hstep : step s = .next t) (hreset : ∀ rest, s.inputs ≠ .reset :: rest)
    (hown : ∀ (u : State) e l p d, field { u with err := e, inputs := l, replies := p, draws := d } = field u)
    (hexec : ∀ (i : Instr) (u u' : State), exec i u = .next u' → field u' = field u)
    (hne : field t ≠ field s) :
    ∃ off v rest, s.inputs = .write 32 off v :: rest ∧ off % 4 = 0 ∧
      field (writeRegister (Reg.ofOffset off) v { s with inputs := rest }) ≠ field { s with inputs := rest } := by
  rcases step_cases_of_no_reset hstep hreset with ⟨i, rest, _, hrun⟩ | ⟨off, v, rest, hin, h4, rfl⟩ | heq
  · rw [hexec _ _ _ hrun] at hne
    exact absurd (hown s s.err rest s.replies s.draws) hne
  · refine ⟨off, v, rest, hin, h4, ?_⟩
    rwa [hown s s.err rest s.replies s.draws]
  · rw [heq, hown] at hne
    exact absurd rfl hne

/-- Settles O51: the first five fields change by a command alone, the other four by a bus write alone. -/
theorem onlyItsCommandWrites : Obligations.OnlyItsCommandWrites := by
  intro s t hstep hreset
  refine ⟨?xout, ?res, ?seed, ?seedValid, ?hash, ?lanes, ?key, ?mode, ?dbuf⟩
  case xout =>
    intro hne
    obtain ⟨i, rest, hp, hexec⟩ := command_of_field_ne State.xout hstep hreset (by intros; rfl) writeRegister_xout hne
    exact ⟨exec_xout hexec hne ▸ hp, exec_pending hexec⟩
  case res =>
    intro hne
    obtain ⟨i, rest, hp, hexec⟩ := command_of_field_ne State.res hstep hreset (by intros; rfl) writeRegister_res hne
    refine ⟨?_, exec_pending hexec⟩
    rcases exec_res hexec hne with rfl | rfl
    · exact .inl hp
    · exact .inr hp
  case seed =>
    intro hne
    obtain ⟨i, rest, hp, hexec⟩ := command_of_field_ne State.seed hstep hreset (by intros; rfl) writeRegister_seed hne
    exact ⟨exec_seed hexec hne ▸ hp, exec_pending hexec⟩
  case seedValid =>
    intro hne
    obtain ⟨i, rest, hp, hexec⟩ :=
      command_of_field_ne State.seedValid hstep hreset (by intros; rfl) writeRegister_seedValid hne
    refine ⟨?_, exec_pending hexec⟩
    rcases exec_seedValid hexec hne with rfl | rfl
    · exact .inl hp
    · exact .inr hp
  case hash =>
    intro hne
    obtain ⟨i, rest, hp, hexec⟩ := command_of_field_ne State.hash hstep hreset (by intros; rfl) writeRegister_hash hne
    refine ⟨?_, exec_pending hexec⟩
    rcases exec_hash hexec hne with rfl | ⟨off, len, rfl⟩
    · exact .inl hp
    · exact .inr ⟨off, len, hp⟩
  case lanes =>
    intro hne
    obtain ⟨off, v, rest, hin, h4, hwrite⟩ := write_of_field_ne State.lanes hstep hreset (by intros; rfl)
      (fun _ _ _ => exec_lanes) hne
    obtain ⟨hp, off', hoff, hrange⟩ := writeRegister_lanes_ne hwrite
    exact ⟨hp, off, v, rest, hin, offset_ofOffset h4 hoff ▸ hrange⟩
  case key =>
    intro hne
    obtain ⟨off, v, rest, hin, h4, hwrite⟩ := write_of_field_ne State.key hstep hreset (by intros; rfl)
      (fun _ _ _ => exec_key) hne
    obtain ⟨hp, off', hoff, hrange⟩ := writeRegister_key_ne hwrite
    exact ⟨hp, off, v, rest, hin, offset_ofOffset h4 hoff ▸ hrange⟩
  case mode =>
    intro hne
    obtain ⟨off, v, rest, hin, h4, hwrite⟩ := write_of_field_ne State.mode hstep hreset (by intros; rfl)
      (fun _ _ _ => exec_mode) hne
    obtain ⟨hp, hoff⟩ := writeRegister_mode_ne hwrite
    exact ⟨hp, v, rest, offset_ofOffset h4 hoff ▸ hin⟩
  case dbuf =>
    intro a hne
    obtain ⟨off, v, rest, hin, h4, hwrite⟩ := write_of_field_ne (dbufByte · a) hstep hreset (by intros; rfl)
      (fun _ _ _ hexec => exec_dbufByte hexec a) hne
    obtain ⟨hp, off', hoff, hrange⟩ := writeRegister_dbufByte_ne hwrite
    exact ⟨hp, off, v, rest, hin, offset_ofOffset h4 hoff ▸ hrange⟩

end Sys2Proof.Machine

/-! SUPPORT. Proofs for 20_memory.md: accesses outside the aperture and accesses in error (R50, R59), the words and bytes
of DBUF on the bus (R52, R55), and reads that have no side effect (R46, R63). -/

namespace Sys2Proof.Machine

/-! ### Accesses outside the aperture, and accesses in error (R50, R59) -/

section
variable {width off : Nat} (v : Word) (s : State)

theorem busWrite_of_outside (hout : 8192 ≤ off) : busWrite width off v s = .refused .outsideAperture := if_pos hout

theorem busRead_of_outside (hout : 8192 ≤ off) : busRead width off s = .refused .outsideAperture := if_pos hout

theorem validAccess_eq_false_iff : validAccess width off = false ↔ width ≠ 32 ∨ off % 4 ≠ 0 := by
  simp [validAccess, imp_iff_not_or]

theorem busWrite_of_invalid (hlt : off < 0x2000) (hbad : validAccess width off = false) :
    busWrite width off v s = .next (recordError .bus s) := by
  simp [busWrite, hbad, hlt]

theorem busRead_of_invalid (hlt : off < 0x2000) (hbad : validAccess width off = false) :
    busRead width off s = .next (reply 0 (recordError .bus s)) := by
  simp [busRead, hbad, hlt]

end

/-- Settles O12: an invalid access records ERR_BUS, and a read replies 0. -/
theorem badAccessIsBusError : Obligations.BadAccessIsBusError := by
  intro width off v s hlt hbad
  have hinvalid := validAccess_eq_false_iff.mpr hbad
  refine ⟨busWrite_of_invalid v s hlt hinvalid, ?_⟩
  rw [busRead_of_invalid s hlt hinvalid, reply, recordError_replies]

theorem offsetOf_eq_none_iff {base addr : Nat} : offsetOf base addr = none ↔ addr < base ∨ base + 8192 ≤ addr := by
  have hsize : apertureBytes = 8192 := rfl
  rw [offsetOf, ite_eq_right_iff, hsize]
  simp only [reduceCtorEq, imp_false]
  omega

theorem offsetOf_add (base : Nat) {off : Nat} (hlt : off < 8192) : offsetOf base (base + off) = some off := by
  rw [offsetOf, if_pos ⟨Nat.le_add_right base off, Nat.add_lt_add_left hlt base⟩, Nat.add_sub_cancel_left]

/-- Settles O23: the aperture is checked before anything else, and `offsetOf` answers inside it alone. -/
theorem outsideApertureIsRefused : Obligations.OutsideApertureIsRefused :=
  ⟨fun _ _ v s hout => ⟨busWrite_of_outside v s hout, busRead_of_outside s hout⟩,
    fun _ _ => offsetOf_eq_none_iff, fun base _ hlt => offsetOf_add base hlt⟩

/-! ### The words and bytes of DBUF on the bus (R52, R55) -/

theorem busWrite_dbuf_of_idle {j : Nat} (v : Word) {s : State} (hj : j < 1024) (hp : s.pending = none) :
    busWrite 32 (0x1000 + 4 * j) v s = .next { s with dbuf := dbufWriteWord s.dbuf j v } := by
  obtain ⟨h4, hlt, hreg⟩ := ofOffset_of_offset (r := .dbuf ⟨j, hj⟩) rfl
  rw [busWrite_of_aligned v s h4 hlt, hreg, writeRegister_of_idle _ v hp, writeReg]

/-- A bus read of a DBUF word returns its true value, BUSY or not (R46, R55). -/
theorem busRead_dbuf {j : Nat} (s : State) (hj : j < 1024) :
    busRead 32 (0x1000 + 4 * j) s = .next (drawn (reply (dbufWord s j) s)) := by
  obtain ⟨h4, hlt, hreg⟩ := ofOffset_of_offset (r := .dbuf ⟨j, hj⟩) rfl
  rw [busRead_of_aligned s h4 hlt, hreg, busValue_true (.inr ⟨rfl, Reg.noConfusion⟩), readReg]

/-- Byte `4j + b` of DBUF after a bus write of word j is byte `b` of the word (R55). -/
theorem dbufByte_writeWord_same (s : State) (j : Nat) (v : Word) {b : Nat} (hb : b < 4) :
    dbufByte { s with dbuf := dbufWriteWord s.dbuf j v } (4 * j + b) = wordByte v b := by
  rw [dbufByte_writeWord]
  interval_cases b <;> simp

/-- A written word stands in DBUF as its bytes, in ascending order (R52, R55). -/
theorem memRead_writeWord (s : State) (j : Nat) (v : Word) :
    memRead { s with dbuf := dbufWriteWord s.dbuf j v } (4 * j) 4 = wordBytes v := by
  apply List.map_congr_left (g := wordByte v)
  intro b hb
  exact dbufByte_writeWord_same s j v (List.mem_range.mp hb)

theorem wordBytes_le32 (b0 b1 b2 b3 : Byte) : wordBytes (le32 b0 b1 b2 b3) = [b0, b1, b2, b3] := by
  obtain ⟨h0, h1, h2, h3⟩ := wordByte_le32 b0 b1 b2 b3
  rw [wordBytes, h0, h1, h2, h3]

/-- Settles O17: a DBUF word write on an idle engine, byte by byte, and what DBUF word reads return. -/
theorem dbufWordIsFourBytes : Obligations.DbufWordIsFourBytes := by
  refine ⟨?write, ?read, ?bytes⟩
  case write =>
    intro j v s hj hp
    refine ⟨_, busWrite_dbuf_of_idle v hj hp, dbufByte_writeWord_same s j v (b := 0) (by decide),
      dbufByte_writeWord_same s j v (by decide), dbufByte_writeWord_same s j v (by decide),
      dbufByte_writeWord_same s j v (by decide), fun a ha => dbufByte_writeWord_other s v (by omega),
      _, busRead_dbuf _ hj, ?_⟩
    rw [dbufWord_writeWord_same, drawn_replies, reply_replies]
  case read =>
    intro j s hj
    exact ⟨_, busRead_dbuf s hj, by rw [drawn_replies, reply_replies, dbufWord]⟩
  case bytes =>
    intro j b0 b1 b2 b3 s hj hp
    exact ⟨_, busWrite_dbuf_of_idle _ hj hp, (memRead_writeWord s j _).trans (wordBytes_le32 b0 b1 b2 b3)⟩

/-! ### Reads have no side effect (R46, R63) -/

/-- An aligned read returns a value and may take a draw: nothing else changes (log 6, 8). -/
theorem drawn_reply_frame (v : Word) (s : State) :
    drawn (reply v s) = { s with replies := (drawn (reply v s)).replies, draws := (drawn (reply v s)).draws } := by
  unfold drawn
  split <;> rfl

/-- No register shows what the host has read (log 8). -/
theorem readReg_reply (r : Reg) (v : Word) (s : State) : readReg r (reply v s) = readReg r s := by
  cases r <;> rfl

/-- A read of an idle engine returns the register's true value and takes no draw (R46). -/
theorem busRead_of_idle {off : Nat} {s : State} (h4 : off % 4 = 0) (hlt : off < 0x2000) (hp : s.pending = none) :
    busRead 32 off s = .next (reply (readReg (Reg.ofOffset off) s) s) := by
  have hb := busy_eq_false_iff.mpr hp
  rw [busRead_of_aligned s h4 hlt, busValue_true (.inl hb), drawn_of_idle (s := reply _ s) hb]

/-- Settles O20: the first read's reply is all that a second read finds changed, and no register shows it. -/
theorem readsHaveNoSideEffect : Obligations.ReadsHaveNoSideEffect := by
  refine ⟨?frame, ?repeats⟩
  case frame =>
    intro off s t h4 hread
    obtain ⟨hlt, _⟩ := busRead_next hread
    rw [busRead_of_aligned s h4 hlt] at hread
    cases hread
    exact drawn_reply_frame _ s
  case repeats =>
    intro off s h4 hlt hp
    refine ⟨readReg (Reg.ofOffset off) s, _, _, busRead_of_idle h4 hlt hp, rfl,
      busRead_of_idle (s := reply _ s) h4 hlt hp, ?_⟩
    rw [readReg_reply]
    simp [reply]

end Sys2Proof.Machine

/-! SUPPORT. Proofs for 30_encoding.md: the fields of a command word and the words of the commands (R74 to R79, R84), and
what a CMD write does (R73, R81, R82). -/

namespace Sys2Proof.Machine

/-! ### The fields of a word, and the words of the commands (R74, R76, R77, R79) -/

/-- A word is its four fields at their places (R74). -/
theorem toNat_eq_fields (w : Word) :
    w.toNat = (opField w).toNat + 2 ^ 4 * (offField w).toNat + 2 ^ 16 * (lenField w).toNat +
      2 ^ 29 * (rsvField w).toNat := by
  have hlt := w.isLt
  simp only [opField, offField, lenField, rsvField, BitVec.extractLsb'_toNat, Nat.shiftRight_eq_div_pow]
  omega

theorem word_ext_fields {v w : Word} (hop : opField v = opField w) (hoff : offField v = offField w)
    (hlen : lenField v = lenField w) (hrsv : rsvField v = rsvField w) : v = w := by
  apply BitVec.eq_of_toNat_eq
  rw [toNat_eq_fields v, toNat_eq_fields w, hop, hoff, hlen, hrsv]

theorem encode_fields (i : Instr) : Laws.EncodedFields.Statement i := by
  cases i with
  | init => exact Laws.EncodedFields.init
  | update off len => exact Laws.EncodedFields.update off len
  | finalize => exact Laws.EncodedFields.finalize
  | xof => exact Laws.EncodedFields.xof
  | compress => exact Laws.EncodedFields.compress
  | compress4 => exact Laws.EncodedFields.compress4

/-- A word is a command's encoding exactly when its fields are the command's and RSV is 0 (R84). -/
theorem encode_eq_iff_fields {i : Instr} {w : Word} :
    encode i = w ↔ opField w = i.opcode ∧ offField w = i.off ∧ lenField w = i.len ∧ rsvField w = 0 := by
  obtain ⟨hop, hoff, hlen, hrsv⟩ := encode_fields i
  constructor
  · rintro rfl
    exact ⟨hop, hoff, hlen, hrsv⟩
  · rintro ⟨hop', hoff', hlen', hrsv'⟩
    exact word_ext_fields (hop.trans hop'.symm) (hoff.trans hoff'.symm) (hlen.trans hlen'.symm) (hrsv.trans hrsv'.symm)

theorem commandOf_fields (i : Instr) : commandOf i.opcode i.off i.len = some i := by
  cases i <;> rfl

/-- What the opcode map's answer says of the opcode and, for UPDATE, of the operands (R76). -/
theorem fields_of_commandOf {op : BitVec 4} {off : BitVec 12} {len : BitVec 13} {i : Instr}
    (hcmd : commandOf op off len = some i) : op = i.opcode ∧ (op = 2 → i.off = off ∧ i.len = len) := by
  unfold commandOf at hcmd
  split_ifs at hcmd with h1 h2 h3 h4 h5 h6 <;> cases hcmd
  case pos => exact ⟨h1, fun hupdate => absurd (h1.symm.trans hupdate) (by decide)⟩
  case pos => exact ⟨h2, fun _ => ⟨rfl, rfl⟩⟩
  all_goals exact ⟨by assumption, fun hupdate => absurd hupdate h2⟩

/-- Only UPDATE has operands (R79). -/
theorem operands_of_not_update {i : Instr} (hi : i.opcode ≠ 2) : i.off = 0 ∧ i.len = 0 := by
  cases i with
  | update off len => exact absurd rfl hi
  | init | finalize | xof | compress | compress4 => exact ⟨rfl, rfl⟩

/-- The decoder accepts exactly the encodings (R76, R77, R79). -/
theorem decodeWord_eq_ok_iff {w : Word} {i : Instr} : decodeWord w = .ok i ↔ encode i = w := by
  rw [encode_eq_iff_fields]
  constructor
  · intro hdec
    unfold decodeWord at hdec
    split at hdec
    · cases hdec
    next j hcmd =>
      split_ifs at hdec with hrsv hstray
      cases hdec
      obtain ⟨hop, hupdate⟩ := fields_of_commandOf hcmd
      by_cases h2 : opField w = 2
      · obtain ⟨hoff, hlen⟩ := hupdate h2
        exact ⟨hop, hoff.symm, hlen.symm, not_not.mp hrsv⟩
      · obtain ⟨hoff, hlen⟩ := operands_of_not_update (hop ▸ h2)
        obtain ⟨hoff', hlen'⟩ : offField w = 0 ∧ lenField w = 0 := by
          simpa only [h2, not_false_eq_true, true_and, not_or, not_not, ne_eq] using hstray
        exact ⟨hop, hoff'.trans hoff.symm, hlen'.trans hlen.symm, not_not.mp hrsv⟩
  · rintro ⟨hop, hoff, hlen, hrsv⟩
    have hstray : ¬ (i.opcode ≠ 2 ∧ (i.off ≠ 0 ∨ i.len ≠ 0)) := by
      rintro ⟨hne, hoperand⟩
      obtain ⟨hoff0, hlen0⟩ := operands_of_not_update hne
      exact hoperand.elim (absurd hoff0) (absurd hlen0)
    simp only [decodeWord, hop, hoff, hlen, hrsv, commandOf_fields, if_neg hstray, ne_eq, not_true_eq_false, if_false]

/-- Settles O1: the decoder accepts exactly the encodings. -/
theorem decodeOfEncode : Obligations.DecodeOfEncode := fun _ => decodeWord_eq_ok_iff.mpr rfl

/-- Settles O2: the decoder accepts exactly the encodings. -/
theorem encodeOfDecode : Obligations.EncodeOfDecode := fun _ _ => decodeWord_eq_ok_iff.mp

/-- Settles O4, word by word and character by character. -/
theorem sampleWordsDecode : Obligations.SampleWordsDecode := by
  refine ⟨rfl, rfl, rfl, rfl, rfl, rfl, rfl, rfl, ?_, ?_⟩ <;> decide

/-! ### The rows of the match and mask table (R77) -/

/-- A row with the full mask matches one word. -/
theorem decodeWord_eq_ok_iff_fullMask {w : Word} {i : Instr} :
    decodeWord w = .ok i ↔ w &&& 0xFFFFFFFF = encode i := by
  rw [decodeWord_eq_ok_iff, and_fullMask, eq_comm]

/-- The mask of UPDATE's row keeps OP and RSV alone. -/
theorem and_updateMask_fields (w : Word) :
    opField (w &&& 0xE000000F) = opField w ∧ offField (w &&& 0xE000000F) = 0 ∧ lenField (w &&& 0xE000000F) = 0 ∧
      rsvField (w &&& 0xE000000F) = rsvField w := by
  simp only [opField, offField, lenField, rsvField, BitVec.extractLsb'_and]
  exact ⟨BitVec.and_allOnes, BitVec.and_zero, BitVec.and_zero, BitVec.and_allOnes⟩

theorem and_updateMask_eq_iff {w : Word} : w &&& 0xE000000F = 0x00000002 ↔ opField w = 2 ∧ rsvField w = 0 := by
  obtain ⟨hop, hoff, hlen, hrsv⟩ := and_updateMask_fields w
  constructor
  · intro hrow
    rw [← hop, ← hrsv, hrow]
    decide
  · rintro ⟨hop2, hrsv0⟩
    exact word_ext_fields (hop.trans hop2) hoff hlen (hrsv.trans hrsv0)

/-- A word of UPDATE's row is the UPDATE of its own OFF and LEN. -/
theorem decodeWord_of_updateRow {w : Word} (hrow : w &&& 0xE000000F = 0x00000002) :
    decodeWord w = .ok (.update (offField w) (lenField w)) := by
  obtain ⟨hop, hrsv⟩ := and_updateMask_eq_iff.mp hrow
  exact decodeWord_eq_ok_iff.mpr (encode_eq_iff_fields.mpr ⟨hop, rfl, rfl, hrsv⟩)

theorem decodeWord_update_iff {w : Word} :
    (∃ off len, decodeWord w = .ok (.update off len)) ↔ w &&& 0xE000000F = 0x00000002 := by
  constructor
  · rintro ⟨off, len, hdec⟩
    obtain ⟨hop, _, _, hrsv⟩ := encode_eq_iff_fields.mp (decodeWord_eq_ok_iff.mp hdec)
    exact and_updateMask_eq_iff.mpr ⟨hop, hrsv⟩
  · exact fun hrow => ⟨_, _, decodeWord_of_updateRow hrow⟩

/-! ### A write to CMD (R73, R81, R82) -/

theorem busWrite_cmd_of_busy (w : Word) {s : State} (hp : s.pending ≠ none) :
    busWrite 32 0x0004 w s = .next (recordError .busy s) := by
  rw [busWrite_of_aligned w s (by decide) (by decide), ofOffset_cmd, writeRegister, busy_of_pending hp]
  rfl

theorem busWrite_cmd_of_idle (w : Word) {s : State} (hp : s.pending = none) :
    busWrite 32 0x0004 w s = .next (submit w s) := by
  rw [busWrite_of_aligned w s (by decide) (by decide), ofOffset_cmd, writeRegister_of_idle _ w hp, writeReg]

/-- A word that is no command (R82). -/
theorem submit_of_illegal {w : Word} (s : State) (hillegal : ∀ i, decodeWord w ≠ .ok i) :
    submit w s = recordError .illegalCmd s := by
  rcases submit_cases w s with ⟨_, _, hsub⟩ | ⟨i, _, hdec, _⟩ | ⟨i, hdec, _⟩
  · exact hsub
  · exact absurd hdec (hillegal i)
  · exact absurd hdec (hillegal i)

theorem submit_of_rejected {w : Word} {i : Instr} {e : ErrorCode} {s : State} (hdec : decodeWord w = .ok i)
    (herr : acceptError i s = some e) : submit w s = recordError e s := by
  simp only [submit, hdec, herr]

theorem submit_of_accepted {w : Word} {i : Instr} {s : State} (hdec : decodeWord w = .ok i)
    (hacc : acceptError i s = none) : submit w s = accept i s := by
  simp only [submit, hdec, hacc]

/-- R78 in numbers. -/
theorem wellFormed_eq_false_iff {i : Instr} :
    i.wellFormed = false ↔ i.opcode.toNat = 2 ∧ i.off.toNat + i.len.toNat > 4096 := by
  cases i <;> simp [Instr.wellFormed, Instr.opcode, Instr.off, Instr.len]

/-- Settles O3: the rows are the encodings, and what submitting a word of no row, or of an UPDATE out of range, does. -/
theorem matchMaskTable : Obligations.MatchMaskTable := by
  intro w
  refine ⟨decodeWord_eq_ok_iff_fullMask, decodeWord_update_iff, decodeWord_eq_ok_iff_fullMask,
    decodeWord_eq_ok_iff_fullMask, decodeWord_eq_ok_iff_fullMask, decodeWord_eq_ok_iff_fullMask, ?noRow, ?range⟩
  case noRow =>
    intro hinit hupdate hfinalize hxof hcompress hcompress4 s hp
    rw [busWrite_cmd_of_idle w hp, submit_of_illegal s]
    intro i hdec
    cases i with
    | init => exact hinit (decodeWord_eq_ok_iff_fullMask.mp hdec)
    | update off len => exact hupdate (decodeWord_update_iff.mp ⟨off, len, hdec⟩)
    | finalize => exact hfinalize (decodeWord_eq_ok_iff_fullMask.mp hdec)
    | xof => exact hxof (decodeWord_eq_ok_iff_fullMask.mp hdec)
    | compress => exact hcompress (decodeWord_eq_ok_iff_fullMask.mp hdec)
    | compress4 => exact hcompress4 (decodeWord_eq_ok_iff_fullMask.mp hdec)
  case range =>
    intro hrow hover s hp
    have hill : (Instr.update (offField w) (lenField w)).wellFormed = false :=
      wellFormed_eq_false_iff.mpr ⟨rfl, hover⟩
    rw [busWrite_cmd_of_idle w hp, submit_of_rejected (decodeWord_of_updateRow hrow) (if_pos hill)]

/-- The opcodes of the commands (R76). -/
theorem opcode_toNat_range (i : Instr) : 1 ≤ i.opcode.toNat ∧ i.opcode.toNat ≤ 6 := by
  cases i <;> simp [Instr.opcode]

theorem exists_instr_of_fields {op : BitVec 4} {off : BitVec 12} {len : BitVec 13}
    (hop : 1 ≤ op.toNat ∧ op.toNat ≤ 6) (hoperand : op ≠ 2 → off = 0 ∧ len = 0) :
    ∃ i : Instr, i.opcode = op ∧ i.off = off ∧ i.len = len := by
  by_cases h2 : op = 2
  · exact ⟨.update off len, h2.symm, rfl, rfl⟩
  · obtain ⟨rfl, rfl⟩ := hoperand h2
    have hcases : op = 1 ∨ op = 3 ∨ op = 4 ∨ op = 5 ∨ op = 6 := by bv_omega
    rcases hcases with rfl | rfl | rfl | rfl | rfl
    · exact ⟨.init, rfl, rfl, rfl⟩
    · exact ⟨.finalize, rfl, rfl, rfl⟩
    · exact ⟨.xof, rfl, rfl, rfl⟩
    · exact ⟨.compress, rfl, rfl, rfl⟩
    · exact ⟨.compress4, rfl, rfl, rfl⟩

/-- The first three checks of R81, in numbers: a word is a command's encoding exactly when it passes them. -/
theorem exists_decodeWord_eq_ok_iff {w : Word} :
    (∃ i, decodeWord w = .ok i) ↔
      (1 ≤ (opField w).toNat ∧ (opField w).toNat ≤ 6) ∧ (rsvField w).toNat = 0 ∧
        ¬ ((opField w).toNat ≠ 2 ∧ ((offField w).toNat ≠ 0 ∨ (lenField w).toNat ≠ 0)) := by
  constructor
  · rintro ⟨i, hdec⟩
    obtain ⟨hop, hoff, hlen, hrsv⟩ := encode_eq_iff_fields.mp (decodeWord_eq_ok_iff.mp hdec)
    rw [hop, hoff, hlen, hrsv]
    refine ⟨opcode_toNat_range i, rfl, ?_⟩
    rintro ⟨hne, hoperand⟩
    obtain ⟨hoff0, hlen0⟩ := operands_of_not_update (i := i) fun h2 => hne (by rw [h2]; rfl)
    simp [hoff0, hlen0] at hoperand
  · rintro ⟨hop, hrsv, hstray⟩
    obtain ⟨i, hiop, hioff, hilen⟩ := exists_instr_of_fields (off := offField w) (len := lenField w) hop (by bv_omega)
    exact ⟨i, decodeWord_eq_ok_iff.mpr
      (encode_eq_iff_fields.mpr ⟨hiop.symm, hioff.symm, hilen.symm, BitVec.eq_of_toNat_eq hrsv⟩)⟩

theorem eq_xof_iff {i : Instr} : i = .xof ↔ i.opcode.toNat = 4 := by
  cases i <;> simp [Instr.opcode]

theorem opcode_eq_two_iff {i : Instr} : i.opcode = 2 ↔ i.opcode.toNat = 2 := by
  cases i <;> simp [Instr.opcode]

/-- The last three checks of R81, in numbers. -/
theorem acceptError_eq (i : Instr) (s : State) :
    acceptError i s =
      if i.opcode.toNat = 2 ∧ i.off.toNat + i.len.toNat > 4096 then some .range
      else if i.opcode.toNat = 4 ∧ s.seedValid = false then some .noSeed
      else if i.opcode.toNat = 2 ∧ s.hash.cs.totalBytes + i.len.toNat > 2 ^ 74 then some .overflow
      else none := by
  simp only [acceptError, wellFormed_eq_false_iff, eq_xof_iff, opcode_eq_two_iff, maxInputBytes_eq]

/-- Settles O5: the checks of R81 in its order, the first three those of decoding, the others those of acceptance. -/
theorem cmdWriteFollowsDecodeOrder : Obligations.CmdWriteFollowsDecodeOrder := by
  intro w s op off len rsv chunkLen
  refine ⟨busWrite_cmd_of_busy w, fun hp => ⟨submit w s, busWrite_cmd_of_idle w hp, ?_⟩⟩
  have hchecks : (∃ i, decodeWord w = .ok i) ↔
      (1 ≤ op ∧ op ≤ 6) ∧ rsv = 0 ∧ ¬ (op ≠ 2 ∧ (off ≠ 0 ∨ len ≠ 0)) := exists_decodeWord_eq_ok_iff
  by_cases hlegal : ∃ i, decodeWord w = .ok i
  · obtain ⟨hop, hrsv, hstray⟩ := hchecks.mp hlegal
    obtain ⟨i, hdec⟩ := hlegal
    obtain ⟨hiop, hioff, hilen, _⟩ := encode_eq_iff_fields.mp (decodeWord_eq_ok_iff.mp hdec)
    have hopcode : i.opcode.toNat = op := congrArg BitVec.toNat hiop.symm
    have hoffset : i.off.toNat = off := congrArg BitVec.toNat hioff.symm
    have hlength : i.len.toNat = len := congrArg BitVec.toNat hilen.symm
    have hchunk : s.hash.cs.blocks.val * 64 + s.hash.cs.bufLen.val = chunkLen := rfl
    have hacc := acceptError_eq i s
    rw [hopcode, hoffset, hlength, totalBytes_eq, hchunk] at hacc
    rw [if_neg (not_not.mpr hop), if_neg (not_not.mpr hrsv), if_neg hstray]
    split_ifs at hacc ⊢
    · exact submit_of_rejected hdec hacc
    · exact submit_of_rejected hdec hacc
    · exact submit_of_rejected hdec hacc
    · exact ⟨i, hopcode, hoffset, hlength, submit_of_accepted hdec hacc⟩
  · have hsub := submit_of_illegal s (not_exists.mp hlegal)
    split
    · exact hsub
    next hop =>
      split
      · exact hsub
      next hrsv =>
        rw [hchecks, not_and, not_and] at hlegal
        rw [if_pos (not_not.mp (hlegal (not_not.mp hop) (not_not.mp hrsv)))]
        exact hsub

/-! ### The write, then the engine's turn (R73, R149) -/

theorem step_of_write {width off : Nat} {v : Word} {s : State} {rest : List Input}
    (hin : s.inputs = .write width off v :: rest) : step s = busWrite width off v { s with inputs := rest } := by
  simp only [step, hin]

/-- Settles O7: the CMD write is `accept`, and the turn that follows runs the command pending. -/
theorem acceptedCmdWriteRunsOnTurn : Obligations.AcceptedCmdWriteRunsOnTurn := by
  intro i s rest hp hin hacc
  refine ⟨_, ?_, rfl, ?_⟩
  · have hsub := submit_of_accepted (s := { s with inputs := .engineTurn :: rest }) (decodeOfEncode i) hacc
    rw [step_of_write hin, busWrite_cmd_of_idle (s := { s with inputs := .engineTurn :: rest }) _ hp, hsub, accept]
  · rw [step_of_engineTurn rfl, engineStep_of_pending rfl]

end Sys2Proof.Machine

/-! SUPPORT. Proofs for 40_compress.md: the mixing function and the calls of a round (R89 to R91), the rounds and the
message schedule (R88, R90, R92 to R95), and the COMPRESS command (R97, R101). -/

namespace Sys2Proof.Machine

/-! ### The mixing function G (R89) -/

theorem word_set_same (v : Block) (a : Fin 16) (x : Word) : (v.set a x)[a] = x :=
  Vector.getElem_set_self a.isLt

theorem word_set_other (v : Block) {a i : Fin 16} (x : Word) (hne : i ≠ a) : (v.set a x)[i] = v[i] :=
  Vector.getElem_set_ne a.isLt i.isLt (Fin.val_ne_of_ne hne.symm)

theorem block_ext {v w : Block} (hwords : ∀ i : Fin 16, v[i] = w[i]) : v = w :=
  Vector.ext fun n hn => hwords ⟨n, hn⟩

/-- Four of the eight steps of G: those that take one message word. -/
def halfG (v : Block) (a b c d : Fin 16) (m : Word) (nd nb : Nat) : Block :=
  let v := v.set a (v[a] + v[b] + m)
  let v := v.set d (rotr32 (v[d] ^^^ v[a]) nd)
  let v := v.set c (v[c] + v[d])
  v.set b (rotr32 (v[b] ^^^ v[c]) nb)

theorem mixG_eq_halfG (v : Block) (a b c d : Fin 16) (mx my : Word) :
    mixG v a b c d mx my = halfG (halfG v a b c d mx 16 12) a b c d my 8 7 := rfl

section
variable (v : Block) {a b c d : Fin 16}

/-- The four words after half of G, from the old words and the new words of the steps before it. -/
theorem halfG_words (m : Word) (nd nb : Nat) (hab : a ≠ b) (hac : a ≠ c) (had : a ≠ d) (hbc : b ≠ c) (hbd : b ≠ d)
    (hcd : c ≠ d) :
    (halfG v a b c d m nd nb)[a] = v[a] + v[b] + m ∧
    (halfG v a b c d m nd nb)[d] = rotr32 (v[d] ^^^ (halfG v a b c d m nd nb)[a]) nd ∧
    (halfG v a b c d m nd nb)[c] = v[c] + (halfG v a b c d m nd nb)[d] ∧
    (halfG v a b c d m nd nb)[b] = rotr32 (v[b] ^^^ (halfG v a b c d m nd nb)[c]) nb := by
  simp only [halfG, word_set_same, word_set_other _ _ hab, word_set_other _ _ hac, word_set_other _ _ had,
    word_set_other _ _ hbc, word_set_other _ _ hbd, word_set_other _ _ hcd, word_set_other _ _ hab.symm,
    word_set_other _ _ hac.symm, word_set_other _ _ had.symm, word_set_other _ _ hbc.symm, word_set_other _ _ hbd.symm,
    word_set_other _ _ hcd.symm, and_self]

theorem halfG_other (m : Word) (nd nb : Nat) {i : Fin 16} (ha : i ≠ a) (hb : i ≠ b) (hc : i ≠ c) (hd : i ≠ d) :
    (halfG v a b c d m nd nb)[i] = v[i] := by
  rw [halfG, word_set_other _ _ hb, word_set_other _ _ hc, word_set_other _ _ hd, word_set_other _ _ ha]

/-- Every word G is not called on stays as it is (R89). -/
theorem mixG_other (mx my : Word) {i : Fin 16} (hi : i ∉ [a, b, c, d]) : (mixG v a b c d mx my)[i] = v[i] := by
  simp only [List.mem_cons, List.not_mem_nil, or_false, not_or] at hi
  obtain ⟨ha, hb, hc, hd⟩ := hi
  rw [mixG_eq_halfG, halfG_other _ _ _ _ ha hb hc hd, halfG_other _ _ _ _ ha hb hc hd]

end

/-- Settles O27: each half of the eight steps by `halfG_words`. -/
theorem mixStepWords : Obligations.MixStepWords := by
  intro v a b c d mx my hab hac had hbc hbd hcd
  obtain ⟨ha1, hd1, hc1, hb1⟩ := halfG_words v mx 16 12 hab hac had hbc hbd hcd
  obtain ⟨ha2, hd2, hc2, hb2⟩ := halfG_words (halfG v a b c d mx 16 12) my 8 7 hab hac had hbc hbd hcd
  simp only [mixG_eq_halfG, ha2, hd2, hc2, hb2, ha1, hd1, hc1, hb1, true_and]
  exact fun i ha hb hc hd => mixG_other v mx my (by simp [ha, hb, hc, hd])

/-! ### The calls inside a group (R90, R91) -/

/-- The words G is called on depend on those four words of the state alone. -/
theorem mixG_congr {v w : Block} {a b c d : Fin 16} (mx my : Word) (hdistinct : [a, b, c, d].Nodup)
    (heq : ∀ i ∈ [a, b, c, d], v[i] = w[i]) {i : Fin 16} (hi : i ∈ [a, b, c, d]) :
    (mixG v a b c d mx my)[i] = (mixG w a b c d mx my)[i] := by
  simp only [List.nodup_cons, List.mem_cons, List.not_mem_nil, or_false, not_or] at hdistinct
  obtain ⟨⟨hab, hac, had⟩, ⟨hbc, hbd⟩, hcd, _⟩ := hdistinct
  obtain ⟨hva, hvb, hvc, hvd, _⟩ := mixStepWords v a b c d mx my hab hac had hbc hbd hcd
  obtain ⟨hwa, hwb, hwc, hwd, _⟩ := mixStepWords w a b c d mx my hab hac had hbc hbd hcd
  simp only [List.forall_mem_cons, List.not_mem_nil, false_imp_iff, implies_true, and_true] at heq
  obtain ⟨ha, hb, hc, hd⟩ := heq
  rw [← ha, ← hb, ← hc, ← hd] at hwa hwb hwc hwd
  simp only [List.mem_cons, List.not_mem_nil, or_false] at hi
  rcases hi with rfl | rfl | rfl | rfl
  · exact hva.trans hwa.symm
  · exact hvb.trans hwb.symm
  · exact hvc.trans hwc.symm
  · exact hvd.trans hwd.symm

/-- Calls of G on disjoint words do not see each other (R91). -/
theorem mixG_comm (v : Block) {a b c d a' b' c' d' : Fin 16} (mx my mx' my' : Word)
    (hdistinct : [a, b, c, d].Nodup) (hdistinct' : [a', b', c', d'].Nodup)
    (hdisjoint : ∀ i ∈ [a, b, c, d], i ∉ [a', b', c', d']) :
    mixG (mixG v a b c d mx my) a' b' c' d' mx' my' = mixG (mixG v a' b' c' d' mx' my') a b c d mx my := by
  refine block_ext fun i => ?_
  by_cases hi : i ∈ [a, b, c, d]
  · rw [mixG_other _ _ _ (hdisjoint i hi)]
    exact mixG_congr mx my hdistinct (fun j hj => (mixG_other v _ _ (hdisjoint j hj)).symm) hi
  · rw [mixG_other _ mx my hi]
    by_cases hi' : i ∈ [a', b', c', d']
    · exact mixG_congr mx' my' hdistinct' (fun j hj => mixG_other v _ _ fun hj' => hdisjoint j hj' hj) hi'
    · rw [mixG_other _ _ _ hi', mixG_other _ _ _ hi', mixG_other _ _ _ hi]

/-- Calls of a group, each on its own words, may be made in any order. -/
theorem foldl_gCall_perm {m : Block} {s : Vector (Fin 16) 16} {call : Fin 4 → Fin 8} {a b c d : Fin 4 → Fin 16}
    (hdistinct : ∀ j, [a j, b j, c j, d j].Nodup)
    (hdisjoint : ∀ j k, j ≠ k → ∀ i ∈ [a j, b j, c j, d j], i ∉ [a k, b k, c k, d k]) {l l' : List (Fin 4)}
    (hperm : l.Perm l') (v : Block) :
    l.foldl (fun v j => gCall m s (call j) (a j) (b j) (c j) (d j) v) v =
      l'.foldl (fun v j => gCall m s (call j) (a j) (b j) (c j) (d j) v) v := by
  refine hperm.foldl_eq' (fun j _ k _ v => ?_) v
  rcases eq_or_ne j k with rfl | hne
  · rfl
  · exact mixG_comm v _ _ _ _ (hdistinct j) (hdistinct k) (hdisjoint j k hne)

theorem columns_eq_foldl (m : Block) (s : Vector (Fin 16) 16) (v : Block) :
    columns m s v = [0, 1, 2, 3].foldl (fun v (j : Fin 4) => gCall m s (Fin.ofNat 8 j.val) (Fin.ofNat 16 j.val)
      (Fin.ofNat 16 (4 + j.val)) (Fin.ofNat 16 (8 + j.val)) (Fin.ofNat 16 (12 + j.val)) v) v := by
  simp only [List.foldl_cons, List.foldl_nil]
  rfl

theorem diagonals_eq_foldl (m : Block) (s : Vector (Fin 16) 16) (v : Block) :
    diagonals m s v = [0, 1, 2, 3].foldl (fun v (j : Fin 4) => gCall m s (Fin.ofNat 8 (4 + j.val))
      (Fin.ofNat 16 j.val) (Fin.ofNat 16 (4 + (j.val + 1) % 4)) (Fin.ofNat 16 (8 + (j.val + 2) % 4))
      (Fin.ofNat 16 (12 + (j.val + 3) % 4)) v) v := by
  simp only [List.foldl_cons, List.foldl_nil]
  rfl

/-- Settles O28: no two columns share a word, and no two diagonals do. -/
theorem callsWithinGroupCommute : Obligations.CallsWithinGroupCommute := by
  intro m s v l hperm
  rw [columns_eq_foldl, diagonals_eq_foldl]
  exact ⟨foldl_gCall_perm (by decide) (by decide) hperm v, foldl_gCall_perm (by decide) (by decide) hperm v⟩

/-! ### The rounds (R88, R90, R94, R95) -/

/-- A round is eight calls of G: the columns, then the diagonals (R90). -/
theorem mixRound_eq (m : Block) (s : Vector (Fin 16) 16) (v : Block) :
    mixRound m s v =
      mixG (mixG (mixG (mixG (mixG (mixG (mixG (mixG v
        0 4 8 12 m[s[0]] m[s[1]]) 1 5 9 13 m[s[2]] m[s[3]]) 2 6 10 14 m[s[4]] m[s[5]]) 3 7 11 15 m[s[6]] m[s[7]])
        0 5 10 15 m[s[8]] m[s[9]]) 1 6 11 12 m[s[10]] m[s[11]]) 2 7 8 13 m[s[12]] m[s[13]])
        3 4 9 14 m[s[14]] m[s[15]] := rfl

theorem workingState_zero (o : Operands) : workingState o 0 = initialState o := rfl

/-- Round r follows the first r rounds (R94). -/
theorem workingState_succ (o : Operands) {r : Nat} (hr : r < 7) :
    workingState o (r + 1) = mixRound o.m schedule[r] (workingState o r) := by
  have hrow : schedule.toList.take (r + 1) = schedule.toList.take r ++ [schedule[r]] :=
    List.take_succ_eq_append_getElem (by simpa using hr)
  rw [workingState, hrow, List.foldl_append, ← workingState]
  rfl

/-- The output words, in the two halves (R95). -/
theorem compress_words (o : Operands) {i : Nat} (hi : i < 8) :
    (compress o)[i] = (workingState o 7)[i] ^^^ (workingState o 7)[i + 8] ∧
    (compress o)[i + 8] = (workingState o 7)[i + 8] ^^^ o.cv[i] := by
  simp [compress, outputWords, hi]

/-- Settles O26, rule by rule. -/
theorem compressionStructure : Obligations.CompressionStructure := by
  refine ⟨?chainingValue, ?iv, fun _ => ⟨rfl, rfl, rfl, rfl⟩, mixRound_eq, workingState_zero,
    fun o r => workingState_succ o r.isLt, fun o i => compress_words o i.isLt⟩
  case chainingValue => intro o i; fin_cases i <;> rfl
  case iv => intro o i; fin_cases i <;> rfl

/-! ### The permuting form of the schedule (R92, R93) -/

theorem schedule_zero (i : Fin 16) : schedule[0][i] = i := by
  revert i
  decide

theorem schedule_succ (r : Fin 6) (i : Fin 16) : schedule[r.val + 1][i] = schedule[r.val][sigma[i]] := by
  revert r i
  decide

/-- A round reads its message through its row alone. -/
theorem mixRound_congr {m m' : Block} {s s' : Vector (Fin 16) 16} (hwords : ∀ i : Fin 16, m[s[i]] = m'[s'[i]])
    (v : Block) : mixRound m s v = mixRound m' s' v := by
  have hcall (j : Fin 8) (a b c d : Fin 16) (u : Block) : gCall m s j a b c d u = gCall m' s' j a b c d u := by
    rw [gCall, gCall]
    congr 1
    · exact hwords ⟨2 * j.val, by omega⟩
    · exact hwords ⟨2 * j.val + 1, by omega⟩
  simp only [mixRound, columns, diagonals, hcall]

theorem permuteMessage_word (m : Block) (i : Fin 16) : (permuteMessage m)[i] = m[sigma[i]] := by
  simp [permuteMessage]

/-- The message permuted r times is the message read through row r (R93). -/
theorem iterate_permuteMessage_word (m : Block) {r : Nat} (hr : r < 7) (i : Fin 16) :
    (permuteMessage^[r] m)[i] = m[schedule[r][i]] := by
  induction r generalizing i with
  | zero => exact congrArg (m[·]) (schedule_zero i).symm
  | succ r ih =>
    rw [Function.iterate_succ_apply', permuteMessage_word, ih (by omega)]
    exact congrArg (m[·]) (schedule_succ ⟨r, by omega⟩ i).symm

/-- After r rounds, n more in the permuting form are n more rounds of the schedule. -/
theorem permutedRounds_iterate (o : Operands) {n r : Nat} (hr : r + n ≤ 7) :
    permutedRounds n (permuteMessage^[r] o.m) (workingState o r) = workingState o (r + n) := by
  induction n generalizing r with
  | zero => rfl
  | succ n ih =>
    have hround : mixRound (permuteMessage^[r] o.m) schedule[0] (workingState o r) = workingState o (r + 1) := by
      rw [workingState_succ o (by omega)]
      refine mixRound_congr (fun i => ?_) _
      simp only [schedule_zero, iterate_permuteMessage_word o.m (show r < 7 by omega)]
    rw [permutedRounds, hround, ← Function.iterate_succ_apply' permuteMessage, ih (by omega),
      Nat.succ_add_eq_add_succ]

/-- Settles O29: the seven rounds of the permuting form are `permutedRounds_iterate` from the initial state. -/
theorem permutedScheduleIsEquivalent : Obligations.PermutedScheduleIsEquivalent := by
  refine ⟨schedule_zero, schedule_succ, fun o => ?_⟩
  have hrounds : permutedRounds 7 o.m (initialState o) = workingState o 7 :=
    permutedRounds_iterate o (n := 7) (r := 0) (Nat.le_refl 7)
  rw [compressPermuted, hrounds, compress]

/-! ### A CMD write whose word has the opcode of a command without operands (R79, R81, R82) -/

/-- A word with the opcode of a command without operands is that command's encoding or no command at all. -/
theorem eq_of_opField_eq_opcode {w : Word} {i j : Instr} (hi : i.opcode ≠ 2) (hop : opField w = i.opcode)
    (hdec : decodeWord w = .ok j) : j = i := by
  obtain ⟨hjop, _⟩ := encode_eq_iff_fields.mp (decodeWord_eq_ok_iff.mp hdec)
  have heq : i.opcode = j.opcode := hop.symm.trans hjop
  obtain ⟨hioff, hilen⟩ := operands_of_not_update hi
  obtain ⟨hjoff, hjlen⟩ := operands_of_not_update (heq ▸ hi)
  have hcmd := commandOf_fields i
  rw [heq, hioff, hilen, ← hjoff, ← hjlen, commandOf_fields] at hcmd
  exact Option.some.inj hcmd

/-- The CMD write of such a word: refused while BUSY, submitted if it is the encoding, illegal otherwise. -/
theorem busWrite_cmd_of_opcode {w : Word} {i : Instr} (u : State) (hi : i.opcode ≠ 2) (hop : opField w = i.opcode) :
    busWrite 32 0x0004 w u = .next
      (if u.busy then recordError .busy u
      else if w = encode i then submit (encode i) u
      else recordError .illegalCmd u) := by
  split
  next hbusy =>
    obtain ⟨j, hp⟩ := busy_eq_true_iff.mp hbusy
    exact busWrite_cmd_of_busy w (hp ▸ Option.some_ne_none j)
  next hidle =>
    rw [busWrite_cmd_of_idle w (busy_eq_false_iff.mp (Bool.eq_false_iff.mpr hidle))]
    split
    next hword => rw [hword]
    next hother =>
      rw [submit_of_illegal u]
      intro j hdec
      obtain rfl := eq_of_opField_eq_opcode hi hop hdec
      exact hother (decodeWord_eq_ok_iff.mp hdec).symm

/-! ### COMPRESS (R97, R101) -/

theorem encode_compress : encode .compress = 0x00000005 := by decide

theorem submit_compress (s : State) : submit (encode .compress) s = { s with pending := some .compress } :=
  submit_of_accepted (decodeOfEncode .compress) rfl

/-- The state COMPRESS leaves (R101). -/
theorem exec_compress (s : State) :
    exec .compress s = .next (complete { s with res := s.res.set 0 (compress s.lanes[0].operands) }) := rfl

/-- RES[0] reads as the block it was replaced by (R34). -/
theorem readReg_compress_res (s : State) (b : Block) (i : Fin 16) :
    readReg (.res 0 i) (complete { s with res := s.res.set 0 b }) = b[i] :=
  congrArg (·[i]) (Vector.getElem_set_self (by decide))

/-- Replacing RES[0] at completion leaves every other register, and DBUF (R101). -/
theorem compress_otherRegsKept (s : State) (b : Block) :
    OtherRegsKept (fun r => ∃ i, r = .res 0 i) s (complete { s with res := s.res.set 0 b }) := by
  refine ⟨fun r hstatus hother => ?_, fun _ => rfl⟩
  cases r
  case status => exact absurd rfl hstatus
  case res k i =>
    have hk : 0 ≠ k.val := fun h0 => hother ⟨i, congrArg (Reg.res · i) (Fin.ext h0.symm)⟩
    exact congrArg (·[i]) (Vector.getElem_set_ne (by decide) k.isLt hk)
  all_goals rfl

/-- CF-1 of the spec's vectors: the first half of the output. -/
theorem compress_cf1 :
    first8 (compress { cv := iv, m := Vector.replicate 16 0, counter := 0, blockLen := 0, flags := 0x0B }) =
      #v[0xB94913AF, 0xA6A1F9F5, 0xEA4D40A0, 0x49C9DC36, 0xC925CB9B, 0xB712C1AD, 0xCA939ACC, 0x62321FE4] := by
  decide +kernel

/-- Settles O34: the CMD write by its opcode, the step by `exec_compress`, the corners at words 12 to 15 of the initial
state. -/
theorem compressResult : Obligations.CompressResult := by
  refine ⟨encode_compress, ?cmdWrite, ?effect, ?corners, compress_cf1⟩
  case cmdWrite =>
    intro w u hop
    rw [busWrite_cmd_of_opcode (i := .compress) u (by decide) hop, submit_compress, encode_compress]
  case effect =>
    intro s
    exact ⟨_, exec_compress s, readReg_compress_res s _, rfl, rfl, rfl, rfl, rfl, compress_otherRegsKept s _⟩
  case corners =>
    refine fun o => ⟨rfl, fun hflags => ?_, fun hctr => ?_⟩
    · show o.flags.setWidth 32 = _
      rw [hflags]
      rfl
    · show ctrLow o.counter = _ ∧ ctrHigh o.counter = _
      rw [hctr]
      decide

end Sys2Proof.Machine

/-! SUPPORT. Proofs for 41_compress4.md: the transposed datapath (R103, R107), COMPRESS4 and its lanes (R104 to R106), and
the four-chunk path of UPDATE (R108, R109). -/

namespace Sys2Proof.Machine

/-! ### The transposed datapath (R103, R107) -/

theorem laneOf_word (v : Vector LaneVec 16) (k : Fin 4) (i : Fin 16) : (laneOf v k)[i] = v[i][k] := by
  simp [laneOf]

theorem laneOf_set (v : Vector LaneVec 16) (a : Fin 16) (x : LaneVec) (k : Fin 4) :
    laneOf (v.set a x) k = (laneOf v k).set a x[k] := by
  refine block_ext fun i => ?_
  by_cases hi : i = a
  · subst hi
    rw [word_set_same, laneOf_word]
    simp
  · rw [word_set_other _ _ hi, laneOf_word, laneOf_word]
    simp [Vector.getElem_set_ne, Fin.val_ne_of_ne (Ne.symm hi)]

theorem laneOf_transpose (w : Vector Block 4) (k : Fin 4) : laneOf (transpose w) k = w[k] :=
  block_ext fun i => by
    rw [laneOf_word]
    simp [transpose]

theorem laneMap2_lane (f : Word → Word → Word) (x y : LaneVec) (k : Fin 4) : (laneMap2 f x y)[k] = f x[k] y[k] := by
  simp [laneMap2]

theorem laneRotr_lane (x : LaneVec) (n : Nat) (k : Fin 4) : (laneRotr x n)[k] = rotr32 x[k] n := by
  simp [laneRotr]

/-- One lane of the transposed G is G on that lane's state (R89, R103). -/
theorem laneOf_laneG (v : Vector LaneVec 16) (a b c d : Fin 16) (mx my : LaneVec) (k : Fin 4) :
    laneOf (laneG v a b c d mx my) k = mixG (laneOf v k) a b c d mx[k] my[k] := by
  simp only [laneG, mixG, laneOf_set, laneMap2_lane, laneRotr_lane, ← laneOf_word]

/-- One lane of the transposed round is a round on that lane's state and message (R90, R103). -/
theorem laneOf_laneRound (m : Vector LaneVec 16) (s : Vector (Fin 16) 16) (v : Vector LaneVec 16) (k : Fin 4) :
    laneOf (laneRound m s v) k = mixRound (laneOf m k) s (laneOf v k) := by
  simp only [laneRound, mixRound, columns, diagonals, gCall, laneOf_laneG, laneOf_word]

/-- Reading a lane commutes with any rounds (R103). -/
theorem laneOf_rounds (m v : Vector LaneVec 16) (rows : List (Vector (Fin 16) 16)) (k : Fin 4) :
    laneOf (rows.foldl (fun v s => laneRound m s v) v) k =
      rows.foldl (fun v s => mixRound (laneOf m k) s v) (laneOf v k) := by
  induction rows generalizing v with
  | nil => rfl
  | cons s rest ih => rw [List.foldl_cons, List.foldl_cons, ih, laneOf_laneRound]

/-- The seven rounds are the whole schedule (R94). -/
theorem workingState_seven (o : Operands) :
    workingState o 7 = schedule.toList.foldl (fun v s => mixRound o.m s v) (initialState o) := rfl

/-- Settles O31: a lane of the transposed rounds is the rounds of that lane (`laneOf_rounds`), from that lane's initial
state and message (`laneOf_transpose`). -/
theorem transposedLanesEqualScalar : Obligations.TransposedLanesEqualScalar := by
  intro o k
  show (Vector.ofFn _)[k] = outputWords (workingState o[k] 7) o[k].cv
  rw [workingState_seven, Fin.getElem_fin, Vector.getElem_ofFn, laneOf_rounds, laneOf_transpose, laneOf_transpose]
  simp

/-! ### COMPRESS4 (R104 to R106) -/

/-- Words 0..7 of a bank read back as the chaining value they were replaced by (R12, R105). -/
theorem first8_setFirst8 (bank : Block) (cv : Cv) : first8 (setFirst8 bank cv) = cv := by
  ext1 i hi
  simp [first8, setFirst8]

/-- Words 0..7 of a bank are replaced by the first words of an output, words 8..15 are kept (R105). -/
theorem setFirst8_first8_word (bank out : Block) (i : Fin 16) :
    (setFirst8 bank (first8 out))[i] = if i.val < 8 then out[i] else bank[i] := by
  by_cases hi : i.val < 8 <;> simp [first8, setFirst8, hi]

/-- The result banks COMPRESS4 leaves (R105). -/
def compress4Banks (s : State) : Vector Block 4 :=
  Vector.ofFn fun k : Fin 4 => setFirst8 s.res[k] (chainingValue s.lanes[k].operands)

theorem compress4Banks_bank (s : State) (k : Fin 4) :
    (compress4Banks s)[k] = setFirst8 s.res[k] (chainingValue s.lanes[k].operands) := by
  simp [compress4Banks]

/-- The state COMPRESS4 leaves (R105). -/
theorem exec_compress4 (s : State) :
    exec .compress4 s = .next (complete { s with res := compress4Banks s }) := by
  have hlane (k : Fin 4) : (compress4 (s.lanes.map LaneBank.operands))[k.val] = compress s.lanes[k].operands := by
    simp [compress4]
  simp only [exec, execCompress4, hlane]
  rfl

/-- The result bank of a lane after COMPRESS4, word by word: the compression of that lane's own tuple in words 0..7,
words 8..15 kept (R103, R105). -/
theorem readReg_compress4_res (s : State) (k : Fin 4) (i : Fin 16) :
    readReg (.res k i) (complete { s with res := compress4Banks s }) =
      if i.val < 8 then (compress s.lanes[k].operands)[i] else readReg (.res k i) s := by
  show (compress4Banks s)[k][i] = _
  rw [compress4Banks_bank, chainingValue, setFirst8_first8_word]
  rfl

/-- Settles O32: both commands leave the compression of the same tuple, and a lane's tuple is not in another lane's
bank. -/
theorem laneEqualsCompressOfItsTuple : Obligations.LaneEqualsCompressOfItsTuple := by
  refine ⟨fun s t u k hfour hone i hi => ?sameAsCompress, fun s t u k k' b hne hfour hother i => ?otherLane⟩
  case sameAsCompress =>
    rw [exec_compress4] at hfour
    rw [exec_compress] at hone
    cases hfour
    cases hone
    rw [readReg_compress4_res, if_pos hi, readReg_compress_res]
    simp
  case otherLane =>
    rw [exec_compress4] at hfour hother
    cases hfour
    cases hother
    have hlane : (s.lanes.set k' b)[k] = s.lanes[k] :=
      Vector.getElem_set_ne k'.isLt k.isLt (Fin.val_ne_of_ne hne.symm)
    rw [readReg_compress4_res, readReg_compress4_res, hlane]
    rfl

theorem encode_compress4 : encode .compress4 = 0x00000006 := by decide

theorem submit_compress4 (s : State) : submit (encode .compress4) s = { s with pending := some .compress4 } :=
  submit_of_accepted (decodeOfEncode .compress4) rfl

/-- Replacing words 0..7 of the result banks at completion leaves every other register, and DBUF (R105). -/
theorem compress4_otherRegsKept (s : State) :
    OtherRegsKept (fun r => ∃ k i, r = .res k i ∧ i.val < 8) s (complete { s with res := compress4Banks s }) := by
  refine ⟨fun r hstatus hother => ?_, fun _ => rfl⟩
  cases r
  case status => exact absurd rfl hstatus
  case res k i => rw [readReg_compress4_res, if_neg fun hi => hother ⟨k, i, rfl, hi⟩]
  all_goals rfl

/-- CF-2 of the spec's vectors: another block length. CF-1 is `compress_cf1`. -/
theorem chainingValue_cf2 :
    chainingValue { cv := iv, m := Vector.replicate 16 0, counter := 0, blockLen := 1, flags := 0x0B } =
      #v[0xDFDE3A2D, 0xF1611BF1, 0x356E884C, 0x7336A0AF, 0xA787CD6D, 0xC1B5274D, 0xD0250251, 0x13E292F5] := by
  decide +kernel

/-- CF-3 of the spec's vectors: a full message block and no flags. -/
theorem chainingValue_cf3 :
    chainingValue { cv := iv, m := #v[0, 1, 2, 3, 4, 5, 6, 7, 8, 9, 10, 11, 12, 13, 14, 15], counter := 0,
                    blockLen := 64, flags := 0x00 } =
      #v[0x5F98B37E, 0x26B0AF2A, 0xDC58B278, 0x85D56FF6, 0x96F5D384, 0x42C9E776, 0xBEEDD1E4, 0xA03FAF22] := by
  decide +kernel

/-- CF-4 of the spec's vectors: the counter's upper half and every flag. -/
theorem chainingValue_cf4 :
    chainingValue { cv := iv, m := Vector.replicate 16 0, counter := 0x100000000, blockLen := 64, flags := 0xFF } =
      #v[0xB96DDC22, 0xA7929D2E, 0xDAA5CE94, 0xA6691C94, 0xFB7A8752, 0xFCC58907, 0x8586BC2A, 0xCF38E892] := by
  decide +kernel

/-- The first half of a result bank after COMPRESS4 (R105). -/
theorem first8_compress4Banks (s : State) (k : Fin 4) :
    first8 (compress4Banks s)[k] = chainingValue s.lanes[k].operands := by
  rw [compress4Banks_bank, first8_setFirst8]

/-- Settles O35: the CMD write by its opcode, the step by `exec_compress4`, the result banks word by word by
`readReg_compress4_res`, and the worked example by the chaining values of its four tuples. -/
theorem compress4Result : Obligations.Compress4Result := by
  refine ⟨encode_compress4, ?cmdWrite, ?effect, ?workedExample⟩
  case cmdWrite =>
    intro w u hop
    rw [busWrite_cmd_of_opcode (i := .compress4) u (by decide) hop, submit_compress4, encode_compress4]
  case effect =>
    intro s
    have hres (k : Fin 4) (i : Fin 16) (hi : i.val < 8) :
        readReg (.res k i) (complete { s with res := compress4Banks s }) = (compress s.lanes[k].operands)[i] := by
      rw [readReg_compress4_res, if_pos hi]
    refine ⟨_, exec_compress4 s, hres, rfl, rfl, rfl, rfl, rfl, compress4_otherRegsKept s, ?equalBanks, ?compressAfter⟩
    case equalBanks =>
      intro k k' i hi hbanks
      rw [hres k i hi, hres k' i hi, hbanks]
    case compressAfter =>
      refine ⟨_, exec_compress _, readReg_compress_res _ _, fun k i hk => ?_, fun i hi => ?_⟩
      · refine (compress_otherRegsKept _ _).1 _ nofun ?_
        rintro ⟨j, hj⟩
        exact hk (Reg.res.inj hj).1
      · exact (readReg_compress_res _ _ i).trans (hres 0 i hi).symm
  case workedExample =>
    refine ⟨_, exec_compress4 _, ?_, ?_, ?_, ?_⟩
    · exact (first8_compress4Banks _ 0).trans compress_cf1
    · exact (first8_compress4Banks _ 1).trans chainingValue_cf2
    · exact (first8_compress4Banks _ 2).trans chainingValue_cf3
    · exact (first8_compress4Banks _ 3).trans chainingValue_cf4

/-! ### Bytes that fit in the block buffer (R117) -/

/-- A byte that meets room in the block buffer opens no block and no chunk. -/
theorem absorbByte_of_room {h : HashState} (x : Byte) (hroom : h.cs.bufLen.val < 64) :
    absorbByte h x = { h with cs := appendByte h.cs x } := by
  rcases absorbByte_cases h x with ⟨_, hfull, _⟩ | ⟨_, hfull, _⟩ | ⟨_, e⟩
  · omega
  · omega
  · exact e

/-- The stored byte follows the valid bytes of the buffer. -/
theorem appendByte_valid {cs : ChunkState} (x : Byte) (hroom : cs.bufLen.val < 64) :
    (appendByte cs x).valid = cs.valid ++ [x] := by
  rw [ChunkState.valid, appendByte_bufLen, bufLen_succ_val hroom, ChunkState.valid]
  simp [appendByte, List.take_add_one, hroom, List.take_set_of_le]

/-- Bytes that fit in the block buffer are stored there, one after another. -/
theorem absorb_of_room {h : HashState} {xs : List Byte} (hroom : h.cs.bufLen.val + xs.length ≤ 64) :
    absorb h xs = { h with cs := xs.foldl appendByte h.cs } := by
  induction xs generalizing h with
  | nil => rfl
  | cons x xs ih =>
    rw [List.length_cons] at hroom
    rw [absorb_cons, absorbByte_of_room x (by omega), ih, List.foldl_cons]
    rw [appendByte_bufLen, bufLen_succ_val (by omega)]
    omega

/-- What storing bytes that fit does to the chunk state. -/
theorem foldl_appendByte {cs : ChunkState} {xs : List Byte} (hroom : cs.bufLen.val + xs.length ≤ 64) :
    (xs.foldl appendByte cs).cv = cs.cv ∧ (xs.foldl appendByte cs).ctr = cs.ctr ∧
    (xs.foldl appendByte cs).blocks = cs.blocks ∧
    (xs.foldl appendByte cs).bufLen.val = cs.bufLen.val + xs.length ∧
    (xs.foldl appendByte cs).valid = cs.valid ++ xs := by
  induction xs generalizing cs with
  | nil => simp
  | cons x xs ih =>
    rw [List.length_cons] at hroom
    have hlen := bufLen_succ_val (n := cs.bufLen) (by omega)
    obtain ⟨hcv, hctr, hblocks, hbuf, hvalid⟩ := ih (cs := appendByte cs x) (by rw [appendByte_bufLen, hlen]; omega)
    rw [appendByte_bufLen, hlen] at hbuf
    rw [appendByte_valid x (by omega), List.append_assoc, List.singleton_append] at hvalid
    rw [List.foldl_cons, List.length_cons]
    exact ⟨hcv, hctr, hblocks, by omega, hvalid⟩

/-! ### The lazy boundaries seen from the next byte (R117 to R119) -/

/-- Bytes that meet a full block in a chunk that is not full find the block compressed (R118). -/
theorem absorb_of_full_block {h : HashState} {xs : List Byte} (hblocks : h.cs.blocks.val < 15)
    (hbuf : h.cs.bufLen.val = 64) (hxs : xs ≠ []) :
    absorb h xs = absorb { h with cs := compressBlock h.hMode h.cs } xs := by
  obtain ⟨x, rest, rfl⟩ := List.exists_cons_of_ne_nil hxs
  rw [absorb_cons, absorb_cons]
  congr 1
  rcases absorbByte_cases h x with ⟨hlast, _, _⟩ | ⟨_, _, e⟩ | ⟨hroom, _⟩
  · omega
  · rw [e, absorbByte_of_room x (by simp)]
  · omega

/-- Bytes that meet a full chunk find the chunk emitted (R119, R120). -/
theorem absorb_of_full_chunk {h : HashState} {xs : List Byte} (hblocks : h.cs.blocks.val = 15)
    (hbuf : h.cs.bufLen.val = 64) (hxs : xs ≠ []) : absorb h xs = absorb (emitChunk h) xs := by
  obtain ⟨x, rest, rfl⟩ := List.exists_cons_of_ne_nil hxs
  rw [absorb_cons, absorb_cons]
  congr 1
  rcases absorbByte_cases h x with ⟨_, _, e⟩ | ⟨hnotLast, _, _⟩ | ⟨hroom, _⟩
  · rw [e, absorbByte_of_room x (by simp)]
    rfl
  · omega
  · omega

/-! ### One whole chunk on the scalar path (R112, R113) -/

/-- The chaining value after block `b` of a whole chunk, from the one before it (R112, R113). -/
def cvAfterBlock (mode : DomainFlags) (ctr : Counter) (chunk : List Byte) (cv : Cv) (b : Fin 16) : Cv :=
  chainingValue (wholeChunkBlock mode cv ctr chunk b)

section
variable (key : Cv) (mode : DomainFlags) (ctr : Counter) (chunk : List Byte)

/-- The chaining value of a whole chunk after its first `n` blocks. -/
def cvAfterBlocks (n : Nat) : Cv := ((List.finRange 16).take n).foldl (cvAfterBlock mode ctr chunk) key

theorem cvAfterBlocks_succ (b : Fin 16) :
    cvAfterBlocks key mode ctr chunk (b.val + 1) =
      cvAfterBlock mode ctr chunk (cvAfterBlocks key mode ctr chunk b.val) b := by
  have hblock : (List.finRange 16).take (b.val + 1) = (List.finRange 16).take b.val ++ [b] := by
    rw [List.take_succ_eq_append_getElem (by simp), List.getElem_finRange]
    rfl
  rw [cvAfterBlocks, hblock, List.foldl_append, ← cvAfterBlocks]
  rfl

/-- The state of a chunk before its block `b`, nothing in the buffer (R112). -/
def chunkBeforeBlock (b : Fin 16) : ChunkState where
  cv := cvAfterBlocks key mode ctr chunk b.val
  ctr := ctr
  buf := Vector.replicate 64 0
  bufLen := 0
  blocks := b

theorem chunkBeforeBlock_zero : chunkBeforeBlock key mode ctr chunk 0 = newChunk key ctr := rfl

/-- The chunk state with block `b` of the chunk in its buffer. -/
def chunkAtBlock (b : Fin 16) : ChunkState :=
  ((chunk.drop (64 * b.val)).take 64).foldl appendByte (chunkBeforeBlock key mode ctr chunk b)

end

section
variable {key : Cv} {mode : DomainFlags} {ctr : Counter} {chunk : List Byte}

theorem length_chunk_block (hchunk : chunk.length = 1024) (b : Fin 16) :
    ((chunk.drop (64 * b.val)).take 64).length = 64 := by
  rw [List.length_take, List.length_drop]
  omega

/-- Block `b` fills the buffer, and nothing else of the chunk state changes. -/
theorem chunkAtBlock_fields (hchunk : chunk.length = 1024) (b : Fin 16) :
    (chunkAtBlock key mode ctr chunk b).cv = cvAfterBlocks key mode ctr chunk b.val ∧
    (chunkAtBlock key mode ctr chunk b).ctr = ctr ∧ (chunkAtBlock key mode ctr chunk b).blocks = b ∧
    (chunkAtBlock key mode ctr chunk b).bufLen = 64 ∧
    (chunkAtBlock key mode ctr chunk b).valid = (chunk.drop (64 * b.val)).take 64 := by
  have hlen := length_chunk_block hchunk b
  obtain ⟨hcv, hctr, hblocks, hbuf, hvalid⟩ := foldl_appendByte (cs := chunkBeforeBlock key mode ctr chunk b)
    (xs := (chunk.drop (64 * b.val)).take 64) (by rw [hlen]; exact Nat.le_refl 64)
  rw [hlen] at hbuf
  exact ⟨hcv, hctr, hblocks, Fin.ext hbuf, hvalid⟩

/-- A full buffer is all valid bytes. -/
theorem valid_of_full {cs : ChunkState} (hbuf : cs.bufLen = 64) : cs.valid = cs.buf.toList := by
  rw [ChunkState.valid, hbuf]
  exact List.take_of_length_le (by simp)

/-- Compressing a block that is not the chunk's last leaves the chunk before its next block (R112). -/
theorem compressBlock_chunkAtBlock (hchunk : chunk.length = 1024) (b : Fin 15) :
    compressBlock mode (chunkAtBlock key mode ctr chunk b.castSucc) = chunkBeforeBlock key mode ctr chunk b.succ := by
  obtain ⟨hcv, hctr, hblocks, hbuf, hvalid⟩ := chunkAtBlock_fields (key := key) (mode := mode) (ctr := ctr) hchunk
    b.castSucc
  have hlast : b.castSucc ≠ 15 := (Fin.castSucc_lt_last b).ne
  have hops : blockOperands mode (chunkAtBlock key mode ctr chunk b.castSucc) =
      wholeChunkBlock mode (cvAfterBlocks key mode ctr chunk b.val) ctr chunk b.castSucc := by
    rw [blockOperands, hcv, hctr, hblocks, ← valid_of_full hbuf, hvalid, wholeChunkBlock, if_neg hlast]
    rfl
  rw [compressBlock, hops, hctr, hblocks, Fin.coeSucc_eq_succ, chunkBeforeBlock, Fin.val_succ]
  congr 1
  exact (cvAfterBlocks_succ key mode ctr chunk b.castSucc).symm

/-- The CV of a full chunk is its chaining value after sixteen blocks (R113). -/
theorem chunkCv_chunkAtBlock (hchunk : chunk.length = 1024) :
    chunkCv mode (chunkAtBlock key mode ctr chunk 15) = cvAfterBlocks key mode ctr chunk 16 := by
  obtain ⟨hcv, hctr, hblocks, hbuf, hvalid⟩ := chunkAtBlock_fields (key := key) (mode := mode) (ctr := ctr) hchunk 15
  rw [chunkCv, chunkOutput, hcv, hctr, hblocks, hbuf, hvalid]
  exact (cvAfterBlocks_succ key mode ctr chunk 15).symm

end

section
variable {h : HashState} {ctr : Counter} {chunk : List Byte}

/-- Block `b` of a chunk, absorbed when the chunk stands before it. -/
theorem absorb_chunk_block (hchunk : chunk.length = 1024) (b : Fin 16) :
    absorb { h with cs := chunkBeforeBlock h.hKey h.hMode ctr chunk b } ((chunk.drop (64 * b.val)).take 64) =
      { h with cs := chunkAtBlock h.hKey h.hMode ctr chunk b } :=
  absorb_of_room (Nat.zero_add _ ▸ (length_chunk_block hchunk b).le)

/-- From block `b` on, the rest of a whole chunk is absorbed when more bytes follow it: they find the chunk emitted
after its block 15 (R117 to R120). -/
theorem absorb_rest_of_chunk (hchunk : chunk.length = 1024) {ys : List Byte} (hys : ys ≠ []) (b : Fin 16) :
    absorb { h with cs := chunkBeforeBlock h.hKey h.hMode ctr chunk b } (chunk.drop (64 * b.val) ++ ys) =
      absorb (emitChunk { h with cs := chunkAtBlock h.hKey h.hMode ctr chunk 15 }) ys := by
  induction b using Fin.reverseInduction with
  | last =>
    obtain ⟨_, _, hblocks, hbuf, _⟩ := chunkAtBlock_fields (key := h.hKey) (mode := h.hMode) (ctr := ctr) hchunk 15
    have hblock : chunk.drop (64 * (Fin.last 15).val) = (chunk.drop (64 * (Fin.last 15).val)).take 64 :=
      (List.take_of_length_le (by simp [hchunk])).symm
    rw [absorb_append, hblock, absorb_chunk_block hchunk]
    exact absorb_of_full_chunk (congrArg Fin.val hblocks) (congrArg Fin.val hbuf) hys
  | cast b ih =>
    obtain ⟨_, _, hblocks, hbuf, _⟩ :=
      chunkAtBlock_fields (key := h.hKey) (mode := h.hMode) (ctr := ctr) hchunk b.castSucc
    have hsplit : chunk.drop (64 * b.castSucc.val) =
        (chunk.drop (64 * b.castSucc.val)).take 64 ++ chunk.drop (64 * b.succ.val) := by
      rw [Fin.val_succ, Nat.mul_add, ← List.drop_drop]
      exact (List.take_append_drop 64 _).symm
    have hfull : (chunkAtBlock h.hKey h.hMode ctr chunk b.castSucc).blocks.val < 15 := by
      rw [hblocks]
      exact b.isLt
    rw [hsplit, List.append_assoc, absorb_append, absorb_chunk_block hchunk,
      absorb_of_full_block hfull (congrArg Fin.val hbuf) (by simp [hys]), ← ih]
    simp only [compressBlock_chunkAtBlock hchunk]

end

/-- What a whole chunk leaves when bytes follow it: its CV pushed with total its counter + 1, and the next chunk open
(R109, R117). -/
def pushWholeChunk (h : HashState) (chunk : List Byte) : HashState :=
  { h with
    stack := accPush h.hKey h.hMode h.stack (cvAfterBlocks h.hKey h.hMode h.cs.ctr chunk 16) (h.cs.ctr + 1)
    cs := newChunk h.hKey (h.cs.ctr + 1) }

/-- The byte loop over a whole chunk, from an open empty chunk, when bytes follow (R117). -/
theorem absorb_whole_chunk {h : HashState} {chunk ys : List Byte} (hopen : h.cs = newChunk h.hKey h.cs.ctr)
    (hchunk : chunk.length = 1024) (hys : ys ≠ []) :
    absorb h (chunk ++ ys) = absorb (pushWholeChunk h chunk) ys := by
  have hemit : emitChunk { h with cs := chunkAtBlock h.hKey h.hMode h.cs.ctr chunk 15 } = pushWholeChunk h chunk := by
    obtain ⟨_, hctr, _, _, _⟩ :=
      chunkAtBlock_fields (key := h.hKey) (mode := h.hMode) (ctr := h.cs.ctr) hchunk 15
    simp only [emitChunk, chunkCv_chunkAtBlock hchunk, hctr, pushWholeChunk]
  have hrest := absorb_rest_of_chunk (h := h) (ctr := h.cs.ctr) hchunk hys 0
  rw [chunkBeforeBlock_zero, ← hopen, hemit] at hrest
  exact hrest

/-- The byte loop over any number of whole chunks, from an open empty chunk, when a byte follows. -/
theorem absorb_whole_chunks {h : HashState} {chunks : List (List Byte)} (x : Byte)
    (hopen : h.cs = newChunk h.hKey h.cs.ctr) (hchunks : ∀ chunk ∈ chunks, chunk.length = 1024) :
    absorb h (chunks.flatten ++ [x]) = absorbByte (chunks.foldl pushWholeChunk h) x := by
  induction chunks generalizing h with
  | nil => rfl
  | cons chunk rest ih =>
    rw [List.forall_mem_cons] at hchunks
    rw [List.flatten_cons, List.append_assoc, absorb_whole_chunk hopen hchunks.1 (by simp), ih rfl hchunks.2,
      List.foldl_cons]

/-! ### The four-chunk path (R108, R109) -/

/-- One block of each of the four chunks, compressed in lockstep (R108). -/
def cvsAfterBlock (mode : DomainFlags) (ctr : Counter) (chunks : Vector (List Byte) 4) (cvs : Vector Cv 4)
    (b : Fin 16) : Vector Cv 4 :=
  (compress4 (Vector.ofFn fun k : Fin 4 =>
    wholeChunkBlock mode cvs[k.val] (ctr + BitVec.ofNat 64 k.val) chunks[k.val] b)).map first8

theorem fourChunkCvs_eq_foldl (key : Cv) (mode : DomainFlags) (ctr : Counter) (chunks : Vector (List Byte) 4) :
    fourChunkCvs key mode ctr chunks =
      (List.finRange 16).foldl (cvsAfterBlock mode ctr chunks) (Vector.replicate 4 key) := rfl

/-- In lockstep, each lane takes the block of its own chunk (R103). -/
theorem cvsAfterBlock_lane (mode : DomainFlags) (ctr : Counter) (chunks : Vector (List Byte) 4) (cvs : Vector Cv 4)
    (b : Fin 16) (k : Fin 4) :
    (cvsAfterBlock mode ctr chunks cvs b)[k] =
      cvAfterBlock mode (ctr + BitVec.ofNat 64 k.val) chunks[k] cvs[k] b := by
  simp [cvsAfterBlock, compress4, cvAfterBlock, chainingValue]

/-- The CV of each chunk in lockstep is its CV on the scalar path (R108). -/
theorem fourChunkCvs_lane (key : Cv) (mode : DomainFlags) (ctr : Counter) (chunks : Vector (List Byte) 4) (k : Fin 4) :
    (fourChunkCvs key mode ctr chunks)[k] = cvAfterBlocks key mode (ctr + BitVec.ofNat 64 k.val) chunks[k] 16 := by
  have hlane := List.foldl_hom (fun cvs : Vector Cv 4 => cvs[k]) (g₁ := cvsAfterBlock mode ctr chunks)
    (g₂ := cvAfterBlock mode (ctr + BitVec.ofNat 64 k.val) chunks[k]) (l := List.finRange 16)
    (init := Vector.replicate 4 key) fun cvs b => (cvsAfterBlock_lane mode ctr chunks cvs b k).symm
  have hkey : (Vector.replicate 4 key)[k] = key := Vector.getElem_replicate k.isLt
  rw [fourChunkCvs_eq_foldl, ← hlane, hkey]
  rfl

/-- The batched path leaves what four whole chunks leave one after another (R109). -/
theorem absorbFourChunks_eq_foldl (h : HashState) (chunks : Vector (List Byte) 4) :
    absorbFourChunks h chunks = chunks.toList.foldl pushWholeChunk h := by
  have hlist : chunks.toList = [chunks[(0 : Fin 4)], chunks[(1 : Fin 4)], chunks[(2 : Fin 4)], chunks[(3 : Fin 4)]] :=
    List.ext_getElem (by simp) fun n hn _ => by
      rw [Vector.length_toList] at hn
      interval_cases n <;> simp
  have hlanes : List.finRange 4 = [0, 1, 2, 3] := rfl
  rw [hlist, absorbFourChunks]
  simp only [hlanes, List.foldl_cons, List.foldl_nil, pushWholeChunk, newChunk_ctr, ← Fin.getElem_fin, fourChunkCvs_lane]
  simp [BitVec.add_assoc]

/-- Settles O56: both paths push the same four CVs (`absorbFourChunks_eq_foldl`), and the byte that follows is stored in
the fifth chunk. -/
theorem fourChunkPathEqualsByteLoop : Obligations.FourChunkPathEqualsByteLoop := by
  intro h chunks x hopen hchunks
  have hlengths : ∀ chunk ∈ chunks.toList, chunk.length = 1024 := by
    intro chunk hmem
    obtain ⟨k, hk, rfl⟩ := Vector.getElem_of_mem (Vector.mem_toList_iff.mp hmem)
    exact hchunks ⟨k, hk⟩
  rw [absorb_whole_chunks x hopen hlengths, ← absorbFourChunks_eq_foldl]
  exact absorbByte_of_room x (by simp [absorbFourChunks])

end Sys2Proof.Machine

/-! SUPPORT. Proofs for 42_chunk_pipeline.md: the position of the input after any bytes (R110, R117 to R121), INIT (R116),
UPDATE (R117), slices of the input (R122), and the domain-separation flags of the engine's compressions (R111 to R115,
R125, R138). -/

namespace Sys2Proof.Machine

/-! ### The state UPDATE leaves (R117) -/

theorem exec_update (off : BitVec 12) (len : BitVec 13) (s : State) :
    exec (.update off len) s = .next (complete { s with hash := absorb s.hash (memRead s off.toNat len.toNat) }) := rfl

theorem exec_update_hash {off : BitVec 12} {len : BitVec 13} {s t : State}
    (hexec : exec (.update off len) s = .next t) : t.hash = absorb s.hash (memRead s off.toNat len.toNat) := by
  rw [exec_update] at hexec
  cases hexec
  rfl

/-! ### The bytes an accepted UPDATE counts, and the position after any input (R117 to R121) -/

/-- Settles O57: acceptance keeps the total within the limit, where the byte loop counts every byte. -/
theorem acceptedUpdateCountsBytes : Obligations.AcceptedUpdateCountsBytes := by
  intro off len s t hacc hexec
  have hlim := totalBytes_le_of_acceptError_update hacc
  have htotal := absorb_totalBytes (memRead s off.toNat len.toNat) (h := s.hash) (by rwa [memRead_length])
  rw [exec_update_hash hexec, htotal, memRead_length]
  exact ⟨rfl, hlim⟩

/-- Where any byte has been consumed since INIT or reset, CS.buf is not empty (R41). -/
theorem HashState.Inv.bufLen_pos {h : HashState} (hinv : h.Inv) (htotal : h.cs.totalBytes ≠ 0) :
    0 < h.cs.bufLen.val := by
  refine Nat.pos_of_ne_zero fun hempty => htotal ?_
  have hbuf : h.cs.bufLen = 0 := Fin.ext hempty
  simp [totalBytes_eq, hbuf, hinv.emptyBlocks hbuf, hinv.emptyCtr hbuf]

/-- Settles O41: the total is the number of bytes, and a buffer that is not empty after them makes its three digits
unique. -/
theorem inputPositionAfterBytes : Obligations.InputPositionAfterBytes := by
  intro key mode xs hlim h
  have htotal : h.cs.totalBytes = xs.length := (holdsInput_absorb key mode xs hlim).total
  have hinv : h.Inv :=
    absorb_inv xs (.initial key mode) (by rw [initialHash_totalBytes, Nat.zero_add]; exact hlim)
  refine ⟨?empty, fun hne => ?position, htotal, hinv.depth⟩
  case empty =>
    rintro rfl
    exact ⟨rfl, rfl, rfl⟩
  case position =>
    have hlen : xs.length ≠ 0 := fun h0 => hne (List.length_eq_zero_iff.mp h0)
    have hpos := hinv.bufLen_pos (htotal ▸ hlen)
    have hblocks := h.cs.blocks.isLt
    have hbuf := h.cs.bufLen.isLt
    rw [totalBytes_eq] at htotal
    omega

/-! ### Slices of the input (R122) -/

theorem foldl_absorb (h : HashState) (slices : List (List Byte)) : slices.foldl absorb h = absorb h slices.flatten := by
  induction slices generalizing h with
  | nil => rfl
  | cons slice slices ih => rw [List.foldl_cons, ih, List.flatten_cons, absorb_append]

/-- A run of UPDATE commands, each from the hash state the one before left, absorbs their slices one after another. -/
theorem hash_after_updates {offs : Nat → BitVec 12} {lens : Nat → BitVec 13} {before after : Nat → State} {n : Nat}
    (hexec : ∀ k, k < n + 1 → exec (.update (offs k) (lens k)) (before k) = .next (after k))
    (hnext : ∀ k, k + 1 < n + 1 → (before (k + 1)).hash = (after k).hash) :
    (after n).hash = absorb (before 0).hash
      ((List.range (n + 1)).flatMap fun k => memRead (before k) (offs k).toNat (lens k).toNat) := by
  induction n with
  | zero => simpa using exec_update_hash (hexec 0 (by omega))
  | succ n ih =>
    have hprev := ih (fun k hk => hexec k (by omega)) (fun k hk => hnext k (by omega))
    rw [exec_update_hash (hexec (n + 1) (by omega)), hnext n (by omega), hprev, ← absorb_append,
      List.range_succ (n := n + 1), List.flatMap_append, List.flatMap_singleton]

/-- Settles O40: both runs absorb the same bytes. -/
theorem updateSplittingInvariance : Obligations.UpdateSplittingInvariance := by
  refine ⟨foldl_absorb, fun n offs lens before after off len one u hn hexec hnext hone hbytes hwhole => ?commands⟩
  obtain ⟨n, rfl⟩ := Nat.exists_eq_add_one.mpr hn
  rw [exec_update_hash hwhole, hone, hbytes, Nat.add_sub_cancel, hash_after_updates hexec hnext]

/-! ### Domain-separation flags (R111 to R115, R125, R138) -/

/-- The fold of R131 leaves the tuple it began with where the stack is empty, and a parent's flags otherwise. -/
theorem foldStack_flags (key : Cv) (mode : DomainFlags) (st : List Cv) (o : Operands) :
    (foldStack key mode st o).flags = if st = [] then o.flags else parentFlags mode := by
  induction st generalizing o with
  | nil => rfl
  | cons left rest ih =>
    rw [foldStack, ih, if_neg (List.cons_ne_nil left rest)]
    split <;> rfl

theorem rootSeed_flags (h : HashState) :
    (rootSeed h).flags = if h.stack = [] then finalFlags h.hMode h.cs.blocks else parentFlags h.hMode :=
  foldStack_flags ..

/-- XOF's compression has the seed's flags with ROOT added (R137). -/
theorem seedOf_operands_flags (o : Operands) (c : Counter) : ((seedOf o).operands c).flags = o.flags ||| root := rfl

theorem startFlag_getLsbD_root (blocks : Fin 16) : (startFlag blocks).getLsbD 3 = false := by
  rw [startFlag]
  split <;> rfl

section
variable {mode : DomainFlags} (hmode : mode.getLsbD 3 = false)
include hmode

theorem blockFlags_getLsbD_root (blocks : Fin 16) : (blockFlags mode blocks).getLsbD 3 = false := by
  rw [blockFlags, BitVec.getLsbD_or, hmode, startFlag_getLsbD_root, Bool.or_false]

theorem finalFlags_getLsbD_root (blocks : Fin 16) : (finalFlags mode blocks).getLsbD 3 = false := by
  rw [finalFlags, BitVec.getLsbD_or, BitVec.getLsbD_or, hmode, startFlag_getLsbD_root]
  rfl

theorem parentFlags_getLsbD_root : (parentFlags mode).getLsbD 3 = false := by
  rw [parentFlags, BitVec.getLsbD_or, hmode]
  rfl

theorem wholeChunkBlock_flags_getLsbD_root (cv : Cv) (ctr : Counter) (chunk : List Byte) (b : Fin 16) :
    (wholeChunkBlock mode cv ctr chunk b).flags.getLsbD 3 = false := by
  rw [wholeChunkBlock]
  split
  · exact finalFlags_getLsbD_root hmode b
  · exact blockFlags_getLsbD_root hmode b

theorem rootSeed_flags_getLsbD_root {h : HashState} (hh : h.hMode = mode) : (rootSeed h).flags.getLsbD 3 = false := by
  rw [rootSeed_flags, hh]
  split
  · exact finalFlags_getLsbD_root hmode _
  · exact parentFlags_getLsbD_root hmode

end

/-- Settles O55: the seed's flags are those of the fold's last step, and none of the flags of R111 to R125 holds ROOT. -/
theorem rootFlagOnlyFromXof : Obligations.RootFlagOnlyFromXof := by
  refine ⟨fun h => ⟨fun hnil => ?emptyStack, fun hne => ?parent, fun c => rfl, fun c => ?xofRoot,
    fun hmode => rootSeed_flags_getLsbD_root hmode rfl⟩, fun mode hmode => ?engine, fun b => rfl⟩
  case emptyStack =>
    rw [rootSeed_flags, if_pos hnil]
    rfl
  case parent =>
    rw [rootSeed_flags, if_neg hne]
    rfl
  case xofRoot =>
    rw [seedOf_operands_flags, BitVec.getLsbD_or]
    exact Bool.or_true _
  case engine =>
    exact ⟨fun blocks => ⟨blockFlags_getLsbD_root hmode blocks, finalFlags_getLsbD_root hmode blocks⟩,
      parentFlags_getLsbD_root hmode,
      fun cs => ⟨blockFlags_getLsbD_root hmode cs.blocks, finalFlags_getLsbD_root hmode cs.blocks⟩,
      fun _ _ _ => parentFlags_getLsbD_root hmode, wholeChunkBlock_flags_getLsbD_root hmode⟩

/-! ### INIT (R116) -/

theorem ctrHigh_zero : ctrHigh 0 = 0 := by decide

theorem encode_init : encode .init = 0x00000001 := by decide

theorem submit_init (s : State) : submit (encode .init) s = { s with pending := some .init } :=
  submit_of_accepted (decodeOfEncode .init) rfl

/-- The state INIT leaves (R116). -/
theorem exec_init (s : State) :
    exec .init s = .next (complete { s with hash := initialHash s.key s.mode, seedValid := false, xofCtr := 0 }) := rfl

/-- INIT writes XOF_CTR and the four views of the hash state; every other register and DBUF are kept (R116). -/
theorem init_otherRegsKept (s : State) :
    OtherRegsKept (fun r => r = .xofCtrLo ∨ r = .xofCtrHi ∨ r = .chunkCtrLo ∨ r = .chunkCtrHi ∨ r = .chunkLen ∨
      r = .stackDepth) s
      (complete { s with hash := initialHash s.key s.mode, seedValid := false, xofCtr := 0 }) := by
  refine ⟨fun r hstatus hother => ?_, fun _ => rfl⟩
  cases r
  case status => exact absurd rfl hstatus
  case xofCtrLo | xofCtrHi | chunkCtrLo | chunkCtrHi | chunkLen | stackDepth => exact absurd (by simp) hother
  all_goals rfl

/-- Settles O38: the CMD write by its opcode, the step by `exec_init`. -/
theorem initResult : Obligations.InitResult := by
  refine ⟨encode_init, ?cmdWrite, ?effect, ?workedExample⟩
  case cmdWrite =>
    intro w u hop
    rw [busWrite_cmd_of_opcode (i := .init) u (by decide) hop, submit_init, encode_init]
  case effect =>
    intro s
    refine ⟨_, exec_init s, rfl, rfl, ctrHigh_zero, rfl, rfl, rfl, rfl, rfl, rfl, rfl, rfl, init_otherRegsKept s, ?_⟩
    intro hkey hmode
    rw [complete_hash, hkey, hmode]
    rfl
  case workedExample => exact ⟨_, exec_init _, rfl, rfl, rfl, rfl⟩

/-! ### The checks of an UPDATE command word (R78, R81, R121) -/

theorem encode_update (off : BitVec 12) (len : BitVec 13) :
    encode (.update off len) = 0x00000002 ||| (off.setWidth 32 <<< 4) ||| (len.setWidth 32 <<< 16) := rfl

/-- A CMD write is refused while BUSY and submitted otherwise (R73, R151). -/
theorem busWrite_cmd (w : Word) (u : State) :
    busWrite 32 0x0004 w u = .next (if u.busy then recordError .busy u else submit w u) := by
  split
  next hbusy =>
    obtain ⟨i, hp⟩ := busy_eq_true_iff.mp hbusy
    exact busWrite_cmd_of_busy w (hp ▸ Option.some_ne_none i)
  next hidle => exact busWrite_cmd_of_idle w (busy_eq_false_iff.mp (Bool.eq_false_iff.mpr hidle))

theorem acceptError_update (off : BitVec 12) (len : BitVec 13) (s : State) :
    acceptError (.update off len) s =
      if 4096 < off.toNat + len.toNat then some .range
      else if 2 ^ 74 < s.hash.cs.totalBytes + len.toNat then some .overflow
      else none := by
  rw [acceptError_eq]
  simp [Instr.opcode, Instr.off, Instr.len]

/-- A word with UPDATE's opcode, submitted: RSV, the range of R78 and the limit of R121 are what it can fail by. -/
theorem submit_of_opField_update {w : Word} (u : State) (hop : opField w = 2) :
    submit w u =
      if rsvField w ≠ 0 then recordError .illegalCmd u
      else if 4096 < (offField w).toNat + (lenField w).toNat then recordError .range u
      else if 2 ^ 74 < u.hash.cs.totalBytes + (lenField w).toNat then recordError .overflow u
      else accept (.update (offField w) (lenField w)) u := by
  have haccept := acceptError_update (offField w) (lenField w) u
  split
  next hrsv =>
    refine submit_of_illegal u fun i hdec => hrsv ?_
    obtain ⟨_, _, _, hrsv0⟩ := encode_eq_iff_fields.mp (decodeWord_eq_ok_iff.mp hdec)
    exact hrsv0
  next hrsv =>
    have hdec := decodeWord_of_updateRow (and_updateMask_eq_iff.mpr ⟨hop, not_not.mp hrsv⟩)
    split
    next hrange => exact submit_of_rejected hdec (by rw [haccept, if_pos hrange])
    next hrange =>
      split
      next hover => exact submit_of_rejected hdec (by rw [haccept, if_neg hrange, if_pos hover])
      next hover => exact submit_of_accepted hdec (by rw [haccept, if_neg hrange, if_neg hover])

/-! ### How many chunks an UPDATE opens (R117, R119) -/

theorem chunkLen_eq (cs : ChunkState) : cs.chunkLen = cs.blocks.val * 64 + cs.bufLen.val := rfl

theorem appendByte_chunkLen {cs : ChunkState} (x : Byte) (hroom : cs.bufLen.val < 64) :
    (appendByte cs x).chunkLen = cs.chunkLen + 1 := by
  rw [chunkLen_eq, appendByte_blocks, appendByte_bufLen, bufLen_succ_val hroom, chunkLen_eq, Nat.add_assoc]

theorem appendByte_chunkLen_pos {cs : ChunkState} (x : Byte) (hroom : cs.bufLen.val < 64) :
    0 < (appendByte cs x).chunkLen := appendByte_chunkLen x hroom ▸ Nat.succ_pos _

/-- A byte opens a chunk or none, and either way CHUNK_LEN and the bytes of the chunks opened grow by 1 together. -/
theorem absorbByte_chunks (h : HashState) (x : Byte) :
    ∃ n, (absorbByte h x).cs.ctr = h.cs.ctr + BitVec.ofNat 64 n ∧
      n * 1024 + (absorbByte h x).cs.chunkLen = h.cs.chunkLen + 1 := by
  rcases absorbByte_cases h x with ⟨hblocks, hbuf, e⟩ | ⟨hblocks, hbuf, e⟩ | ⟨hroom, e⟩
  · refine ⟨1, by rw [e]; rfl, ?_⟩
    rw [e, appendByte_chunkLen x (by simp), newChunk_chunkLen, (chunkLen_full h.cs).mpr ⟨hblocks, hbuf⟩]
  · refine ⟨0, by simp [e], ?_⟩
    rw [e, appendByte_chunkLen x (by simp), chunkLen_eq, chunkLen_eq, compressBlock_blocks, blocks_succ_val hblocks,
      compressBlock_bufLen, hbuf, Fin.val_zero]
    omega
  · exact ⟨0, by simp [e], by rw [e, appendByte_chunkLen x hroom, Nat.zero_mul, Nat.zero_add]⟩

/-- The chunks that the loop of UPDATE opens, counted by CHUNK_LEN before and after. -/
theorem absorb_chunks (h : HashState) (xs : List Byte) :
    ∃ n, (absorb h xs).cs.ctr = h.cs.ctr + BitVec.ofNat 64 n ∧
      n * 1024 + (absorb h xs).cs.chunkLen = h.cs.chunkLen + xs.length := by
  induction xs generalizing h with
  | nil => exact ⟨0, by simp, by simp⟩
  | cons x xs ih =>
    obtain ⟨m, hctr, hlen⟩ := absorbByte_chunks h x
    obtain ⟨n, hctr', hlen'⟩ := ih (absorbByte h x)
    refine ⟨m + n, ?_, ?_⟩
    · rw [absorb_cons, hctr', hctr, BitVec.ofNat_add, BitVec.add_assoc]
    · rw [absorb_cons, List.length_cons, Nat.add_mul, Nat.add_assoc, hlen', ← Nat.add_assoc, hlen, Nat.add_assoc,
        Nat.add_comm 1]

/-- The chunk that took a byte is not empty: a new one opens only when its first byte comes (R119). -/
theorem absorbByte_chunkLen_pos (h : HashState) (x : Byte) : 0 < (absorbByte h x).cs.chunkLen := by
  rcases absorbByte_cases h x with ⟨_, _, e⟩ | ⟨_, _, e⟩ | ⟨hroom, e⟩
  · exact e ▸ appendByte_chunkLen_pos x (by simp)
  · exact e ▸ appendByte_chunkLen_pos x (by simp)
  · exact e ▸ appendByte_chunkLen_pos x hroom

theorem absorb_chunkLen_pos (h : HashState) {xs : List Byte} (hne : xs ≠ []) : 0 < (absorb h xs).cs.chunkLen := by
  rw [← List.dropLast_append_getLast hne, absorb_append]
  exact absorbByte_chunkLen_pos _ _

/-- The bytes of DBUF open at most four chunks (R117). -/
theorem absorb_opens_at_most_four (h : HashState) {xs : List Byte} (hlen : xs.length ≤ 4096) :
    ∃ n ≤ 4, (absorb h xs).cs.ctr = h.cs.ctr + BitVec.ofNat 64 n := by
  by_cases hnil : xs = []
  · exact ⟨0, by omega, by simp [hnil]⟩
  · obtain ⟨n, hctr, hsum⟩ := absorb_chunks h xs
    have hpos := absorb_chunkLen_pos h hnil
    have hle := chunkLen_le h.cs
    exact ⟨n, by omega, hctr⟩

/-! ### UPDATE (R117) -/

/-- Completion with another hash state changes no register but the four views of it and STATUS, and keeps DBUF (R26 to
R28, R117). -/
theorem hash_otherRegsKept (s : State) (h : HashState) :
    OtherRegsKept (fun r => r = .chunkCtrLo ∨ r = .chunkCtrHi ∨ r = .chunkLen ∨ r = .stackDepth) s
      (complete { s with hash := h }) := by
  refine ⟨fun r hstatus hother => ?_, fun _ => rfl⟩
  cases r
  case status => exact absurd rfl hstatus
  case chunkCtrLo | chunkCtrHi | chunkLen | stackDepth => exact absurd (by simp) hother
  all_goals rfl

/-- The first output block of the plain hash of one byte 0x00: its tuple is that of CF-2. -/
theorem xout_of_one_zero_byte :
    (compress ((seedOf (rootSeed (absorb State.reset.hash [0]))).operands 0))[0] = 0xDFDE3A2D := by
  have htuple : (seedOf (rootSeed (absorb State.reset.hash [0]))).operands 0 =
      { cv := iv, m := Vector.replicate 16 0, counter := 0, blockLen := 1, flags := 0x0B } := by decide +kernel
  have hcv := congrArg (·[0]) chainingValue_cf2
  rw [htuple]
  simpa [chainingValue, first8] using hcv

/-- Settles O39: the CMD write by the checks of `submit_of_opField_update`, the step by `exec_update`, the chunks opened
by CHUNK_LEN before and after, and the worked example by the chaining value of its one block. -/
theorem updateResult : Obligations.UpdateResult := by
  refine ⟨encode_update, ?cmdWrite, ?effect, ?workedExample⟩
  case cmdWrite =>
    intro w u hop
    rw [busWrite_cmd, submit_of_opField_update u hop]
    rfl
  case effect =>
    intro off len s
    refine ⟨_, exec_update off len s, rfl, absorb_hKey _ _, absorb_hMode _ _, rfl, rfl, rfl, rfl, rfl,
      hash_otherRegsKept s _, ?noByte, fun hrange => ?chunks⟩
    case noByte =>
      rintro rfl
      rfl
    case chunks => exact absorb_opens_at_most_four s.hash (by rw [memRead_length]; omega)
  case workedExample =>
    refine ⟨_, _, _, rfl, rfl, rfl, rfl, rfl, rfl, ?_⟩
    exact xout_of_one_zero_byte

end Sys2Proof.Machine

/-! SUPPORT. Proofs for 43_accumulator.md: the merges of a push (R127, R128), FINALIZE (R131), the seed's counter
(R134), and the independence of the captured seed and the hash in progress (R135, R136). -/

namespace Sys2Proof.Machine

/-! ### Trailing zeros of a counter (R12) -/

theorem zerosBelow_of_odd {bits n : Nat} (hodd : n % 2 = 1) : zerosBelow (bits + 1) n = 0 := if_pos hodd

theorem zerosBelow_of_even {bits n : Nat} (heven : n % 2 = 0) :
    zerosBelow (bits + 1) n = zerosBelow bits (n / 2) + 1 := if_neg (by omega)

/-- A number below `2 ^ bits` that is not 0 has its lowest one bit among those `bits`. -/
theorem zerosBelow_lt {bits n : Nat} (hpos : 0 < n) (hn : n < 2 ^ bits) : zerosBelow bits n < bits := by
  induction bits generalizing n with
  | zero => omega
  | succ bits ih =>
    rcases Nat.mod_two_eq_zero_or_one n with heven | hodd
    · rw [zerosBelow_of_even heven]
      exact Nat.succ_lt_succ (ih (by omega) (by omega))
    · rw [zerosBelow_of_odd hodd]
      exact Nat.succ_pos bits

/-- A bit above the lowest one bit does not count. -/
theorem zerosBelow_succ_of_lt {bits n : Nat} (hpos : 0 < n) (hn : n < 2 ^ bits) :
    zerosBelow (bits + 1) n = zerosBelow bits n := by
  induction bits generalizing n with
  | zero => omega
  | succ bits ih =>
    rcases Nat.mod_two_eq_zero_or_one n with heven | hodd
    · rw [zerosBelow_of_even heven, ih (by omega) (by omega), zerosBelow_of_even heven]
    · rw [zerosBelow_of_odd hodd, zerosBelow_of_odd hodd]

theorem toNat_pos_of_ne_zero {n : Counter} (hn : n ≠ 0) : 0 < n.toNat :=
  Nat.pos_of_ne_zero fun h0 => hn (BitVec.eq_of_toNat_eq h0)

theorem tz_le {n : Counter} (hn : n ≠ 0) : tz n ≤ 63 :=
  Nat.le_of_lt_succ (zerosBelow_lt (toNat_pos_of_ne_zero hn) n.isLt)

theorem tz_of_odd {n : Counter} (hodd : n.getLsbD 0 = true) : tz n = 0 :=
  zerosBelow_of_odd (toNat_mod_two_of_odd hodd)

theorem tz_of_even {n : Counter} (heven : n.getLsbD 0 = false) (hn : n ≠ 0) : tz n = tz (n >>> 1) + 1 := by
  have hmod := toNat_mod_two_of_even heven
  have hpos := toNat_pos_of_ne_zero hn
  have hlt := n.isLt
  rw [tz, zerosBelow_of_even hmod, tz, toNat_shiftRight_one,
    zerosBelow_succ_of_lt (bits := 63) (by omega) (by omega)]

/-- Counting down turns the trailing zeros into one bits, so a push finds an entry for each merge (R128). -/
theorem tz_le_popcount_pred {n : Counter} (hn : n ≠ 0) : tz n ≤ popcount (n - 1) := by
  induction htz : tz n generalizing n with
  | zero => exact Nat.zero_le _
  | succ k ih =>
    cases hpar : n.getLsbD 0 with
    | true => exact absurd (tz_of_odd hpar) (by omega)
    | false =>
      obtain ⟨hhalf, hpop⟩ := popcount_pred_of_even hpar hn
      rw [tz_of_even hpar hn] at htz
      rw [hpop]
      exact Nat.succ_le_succ (ih hhalf (by omega))

/-! ### The merges of a push (R127, R128) -/

/-- A push onto enough entries merges the top tz(n) of them into the CV, one after another, and keeps the rest. -/
theorem accPush_eq_foldl {key : Cv} {mode : DomainFlags} {st : List Cv} {n : Counter} (cv : Cv) (hn : n ≠ 0)
    (hst : tz n ≤ st.length) :
    accPush key mode st cv n =
      (st.take (tz n)).foldl (fun cur left => parentCv key mode left cur) cv :: st.drop (tz n) := by
  induction st generalizing cv n with
  | nil => rw [List.take_nil, List.drop_nil]; rfl
  | cons left rest ih =>
    cases hpar : n.getLsbD 0 with
    | true => rw [accPush_odd hpar, tz_of_odd hpar]; rfl
    | false =>
      obtain ⟨hhalf, _⟩ := popcount_pred_of_even hpar hn
      have htz := tz_of_even hpar hn
      rw [List.length_cons] at hst
      rw [accPush_even hpar, htz, ih _ hhalf (by omega)]
      rfl

/-- Settles O42: the premise of R128 gives an entry for each trailing zero. -/
theorem pushMergesTrailingZeros : Obligations.PushMergesTrailingZeros := by
  intro key mode st cv n hn hst
  have hle : tz n ≤ st.length := hst ▸ tz_le_popcount_pred hn
  exact ⟨hle, tz_le hn, accPush_eq_foldl cv hn hle, accPush_length cv hn hst⟩

/-! ### The seed's counter (R134) -/

theorem eq_zero_of_onesBelow {bits n : Nat} (hn : n < 2 ^ bits) (hones : onesBelow bits n = 0) : n = 0 := by
  induction bits generalizing n with
  | zero => omega
  | succ bits ih =>
    rw [onesBelow] at hones
    have hhalf := ih (n := n / 2) (by omega) (by omega)
    omega

theorem eq_zero_of_popcount {n : Counter} (hpop : popcount n = 0) : n = 0 :=
  BitVec.eq_of_toNat_eq (eq_zero_of_onesBelow n.isLt hpop)

/-- The fold of R131 keeps a counter of 0: a parent's is 0 (R125). -/
theorem foldStack_counter_eq_zero (key : Cv) (mode : DomainFlags) (st : List Cv) {o : Operands} (ho : o.counter = 0) :
    (foldStack key mode st o).counter = 0 := by
  induction st generalizing o with
  | nil => exact ho
  | cons left rest ih => exact ih rfl

/-- The tuple the seed is when the stack is empty: the chunk in progress is the root (R131). -/
theorem rootSeed_of_stack_nil {h : HashState} (hnil : h.stack = []) : rootSeed h = chunkOutput h.hMode h.cs := by
  rw [rootSeed, hnil, foldStack]

/-- Where the stack is not empty, the fold goes on from a parent (R131). -/
theorem rootSeed_of_stack_cons {h : HashState} {left : Cv} {rest : List Cv} (hcons : h.stack = left :: rest) :
    rootSeed h = foldStack h.hKey h.hMode rest (parentOutput h.hKey h.hMode left (chunkCv h.hMode h.cs)) := by
  rw [rootSeed, hcons, foldStack, chunkCv]

/-- Settles O47: the last step of the fold is a parent, or the stack is empty and R43 makes CS.ctr 0. -/
theorem seedCounterIsZero : Obligations.SeedCounterIsZero := by
  intro h hinv
  cases hst : h.stack with
  | nil =>
    have hpop : popcount h.cs.ctr = 0 := by rw [← hinv.depth, HashState.depth, hst, List.length_nil]
    rw [rootSeed_of_stack_nil hst]
    exact eq_zero_of_popcount hpop
  | cons left rest =>
    rw [rootSeed_of_stack_cons hst]
    exact foldStack_counter_eq_zero _ _ _ rfl

/-! ### FINALIZE (R131) -/

theorem encode_finalize : encode .finalize = 0x00000003 := by decide

theorem submit_finalize (s : State) : submit (encode .finalize) s = { s with pending := some .finalize } :=
  submit_of_accepted (decodeOfEncode .finalize) rfl

/-- The state FINALIZE leaves (R131). -/
theorem exec_finalize (s : State) :
    exec .finalize s =
      .next (complete { s with seed := seedOf (rootSeed s.hash), seedValid := true, xofCtr := 0 }) := rfl

/-- Capturing a seed writes the SEED registers and XOF_CTR; every other register and DBUF are kept (R131). -/
theorem finalize_otherRegsKept (s : State) (seed : Seed) :
    OtherRegsKept (fun r => (∃ i, r = .seedCv i) ∨ (∃ i, r = .seedM i) ∨ r = .seedBlen ∨ r = .seedFlags ∨
      r = .xofCtrLo ∨ r = .xofCtrHi) s
      (complete { s with seed := seed, seedValid := true, xofCtr := 0 }) := by
  refine ⟨fun r hstatus hother => ?_, fun _ => rfl⟩
  cases r
  case status => exact absurd rfl hstatus
  case seedCv | seedM | seedBlen | seedFlags | xofCtrLo | xofCtrHi => exact absurd (by simp) hother
  all_goals rfl

/-- Settles O37: the CMD write by its opcode, the step by `exec_finalize`, the SEED registers by the left fold that
`rootSeed` is. -/
theorem finalizeResult : Obligations.FinalizeResult := by
  refine ⟨encode_finalize, ?cmdWrite, ?effect, ?workedExample⟩
  case cmdWrite =>
    intro w u hop
    rw [busWrite_cmd_of_opcode (i := .finalize) u (by decide) hop, submit_finalize, encode_finalize]
  case effect =>
    intro s
    refine ⟨_, exec_finalize s, ?seed, rfl, rfl, rfl, rfl, rfl, rfl, finalize_otherRegsKept s _,
      fun hnil => ?emptyStack, fun left hone => ?oneEntry⟩
    case seed =>
      intro o
      have hfold : rootSeed s.hash = o := foldStack_eq_foldl ..
      rw [hfold]
      exact ⟨fun _ => rfl, fun _ => rfl, rfl, rfl⟩
    case emptyStack => exact congrArg seedOf (rootSeed_of_stack_nil hnil)
    case oneEntry => exact congrArg seedOf (rootSeed_of_stack_cons hone)
  case workedExample => exact ⟨_, exec_finalize _, by decide, rfl, rfl⟩

/-! ### The captured seed and the hash in progress (R135, R136) -/

section
variable {i : Instr} {s t : State}

/-- The SEED registers FINALIZE writes are a function of the hash state (R131). -/
theorem exec_finalize_seed (hexec : exec .finalize s = .next t) : t.seed = seedOf (rootSeed s.hash) := by
  rw [exec_finalize] at hexec
  cases hexec
  rfl

/-- No command writes DBUF (R35), so an UPDATE after it reads the bytes it would have read before. -/
theorem exec_memRead (hexec : exec i s = .next t) (off n : Nat) : memRead t off n = memRead s off n :=
  List.map_congr_left fun k _ => exec_dbufByte hexec (off + k)

/-- Only INIT and UPDATE move the hash in progress (R36, R40, R42). -/
theorem exec_hash_eq (hexec : exec i s = .next t) (hinit : i ≠ .init) (hupdate : ∀ off len, i ≠ .update off len) :
    t.hash = s.hash := by
  by_contra hne
  rcases exec_hash hexec hne with rfl | ⟨off, len, rfl⟩
  · exact hinit rfl
  · exact hupdate off len rfl

theorem exec_xof_xout (hexec : exec .xof s = .next t) : t.xout = compress (s.seed.operands s.xofCtr) := by
  cases hexec
  rfl

theorem exec_xof_xofCtr (hexec : exec .xof s = .next t) : t.xofCtr = s.xofCtr + 1 := by
  cases hexec
  rfl

/-- UPDATE leaves all that XOF reads (R136, R137). -/
theorem exec_update_seed {off : BitVec 12} {len : BitVec 13} (hexec : exec (.update off len) s = .next t) :
    t.seed = s.seed ∧ t.seedValid = s.seedValid ∧ t.xofCtr = s.xofCtr := by
  rw [exec_update] at hexec
  cases hexec
  exact ⟨rfl, rfl, rfl⟩

end

/-- Settles O48: neither FINALIZE nor the commands between change the hash state, which is all that the next UPDATE and
the next FINALIZE read of them. -/
theorem finalizeIsPure : Obligations.FinalizeIsPure := by
  intro s t hfin
  have hhash : t.hash = s.hash := exec_hash_eq hfin nofun nofun
  have hagain {u v : State} (hu : u.hash = t.hash) (hv : exec .finalize u = .next v) : v.seed = t.seed := by
    rw [exec_finalize_seed hv, exec_finalize_seed hfin, hu, hhash]
  refine ⟨hhash, fun off len u v hu hv => ?update, fun u hu => hagain rfl hu,
    fun i u v hi hu hv => hagain ?between hv⟩
  case update => rw [exec_update_hash hv, exec_update_hash hu, hhash, exec_memRead hfin]
  case between =>
    rcases hi with rfl | rfl | rfl <;> exact exec_hash_eq hu nofun nofun

/-- Settles O49: XOF reads the seed and XOF_CTR alone, and UPDATE writes neither. -/
theorem seedSurvivesUpdate : Obligations.SeedSurvivesUpdate := by
  intro off len s t u v hupdate
  obtain ⟨hseed, hvalid, hctr⟩ := exec_update_seed hupdate
  refine ⟨hseed, hvalid, fun hu hv => ⟨?_, ?_⟩⟩
  · rw [exec_xof_xout hv, exec_xof_xout hu, hseed, hctr]
  · rw [exec_xof_xofCtr hv, exec_xof_xofCtr hu, hctr]

end Sys2Proof.Machine

/-! SUPPORT. Proofs for 44_output.md: the XOF command (R137), the blocks of the output stream (R139), a run of XOF
commands (R140), and the block XOF_CTR selects (R141). -/

namespace Sys2Proof.Machine

/-! ### XOF (R137) -/

theorem encode_xof : encode .xof = 0x00000004 := by decide

/-- XOF is the one command acceptance refuses without a seed (R81, R137). -/
theorem submit_xof (s : State) :
    submit (encode .xof) s =
      if s.seedValid = false then recordError .noSeed s else { s with pending := some .xof } := by
  have haccept : acceptError .xof s = if s.seedValid = false then some .noSeed else none := by
    simp [acceptError_eq, Instr.opcode]
  split
  next hnone => exact submit_of_rejected (decodeOfEncode .xof) (by rw [haccept, if_pos hnone])
  next hseed => exact submit_of_accepted (decodeOfEncode .xof) (by rw [haccept, if_neg hseed])

/-- The state XOF leaves (R137). -/
theorem exec_xof (s : State) :
    exec .xof s =
      .next (complete { s with xout := compress (s.seed.operands s.xofCtr), xofCtr := s.xofCtr + 1 }) := rfl

/-- XOF writes XOUT and XOF_CTR; every other register and DBUF are kept (R137). -/
theorem xof_otherRegsKept (s : State) (block : Block) (ctr : Counter) :
    OtherRegsKept (fun r => (∃ i, r = .xout i) ∨ r = .xofCtrLo ∨ r = .xofCtrHi) s
      (complete { s with xout := block, xofCtr := ctr }) := by
  refine ⟨fun r hstatus hother => ?_, fun _ => rfl⟩
  cases r
  case status => exact absurd rfl hstatus
  case xout | xofCtrLo | xofCtrHi => exact absurd (by simp) hother
  all_goals rfl

/-- The first block of the empty input's stream: its tuple is that of CF-1. -/
theorem first8_xout_of_no_bytes :
    first8 (compress ((seedOf (rootSeed State.reset.hash)).operands 0)) =
      #v[0xB94913AF, 0xA6A1F9F5, 0xEA4D40A0, 0x49C9DC36, 0xC925CB9B, 0xB712C1AD, 0xCA939ACC, 0x62321FE4] := by
  have htuple : (seedOf (rootSeed State.reset.hash)).operands 0 =
      { cv := iv, m := Vector.replicate 16 0, counter := 0, blockLen := 0, flags := 0x0B } := by decide
  rw [htuple, compress_cf1]

/-- Settles O36: the CMD write by its opcode and the check of `submit_xof`, the step by `exec_xof`, UPDATE before XOF
by O49. -/
theorem xofResult : Obligations.XofResult := by
  refine ⟨encode_xof, ?cmdWrite, ?effect, ?workedExample⟩
  case cmdWrite =>
    intro w u hop
    rw [busWrite_cmd_of_opcode (i := .xof) u (by decide) hop, submit_xof, encode_xof, ite_not]
  case effect =>
    intro s
    refine ⟨_, exec_xof s, fun _ => rfl, BitVec.toNat_add _ _, rfl, rfl, rfl, rfl, rfl, xof_otherRegsKept s _ _,
      fun hlast => ?wrap, ⟨_, exec_xof _, rfl⟩, fun off len u v hu hv => ?afterUpdate⟩
    case wrap =>
      rw [complete_xofCtr, hlast]
      rfl
    case afterUpdate =>
      obtain ⟨_, _, hsame⟩ := seedSurvivesUpdate off len s u _ v hu
      obtain ⟨hxout, _⟩ := hsame (exec_xof s) hv
      exact hxout
  case workedExample => exact ⟨_, _, exec_finalize _, exec_xof _, rfl, first8_xout_of_no_bytes⟩

/-! ### The blocks of the output stream (R139) -/

theorem length_bytesOf_block (w : Block) : (bytesOf w.toList).length = 64 := by
  rw [length_bytesOf, Vector.length_toList]

/-- A byte of block `c` of the stream is that byte of the compression at counter `c` (R139). -/
theorem outputByte_block (seed : Seed) (c : Nat) {i : Nat} (hi : i < 64) :
    outputByte seed (64 * c + i) = (bytesOf (compress (seed.operands (BitVec.ofNat 64 c))).toList).getD i 0 := by
  have hdiv : (64 * c + i) / 64 = c := by omega
  have hmod : (64 * c + i) % 64 = i := by omega
  rw [outputByte, hdiv, hmod]

/-- The compression of the seed at counter `c`, with ROOT, is bytes 64c to 64c + 63 of the stream (R139). -/
theorem bytesOf_compress_seed (seed : Seed) (c : Nat) :
    bytesOf (compress (seed.operands (BitVec.ofNat 64 c))).toList =
      (List.range 64).map fun i => outputByte seed (64 * c + i) := by
  have hlen := length_bytesOf_block (compress (seed.operands (BitVec.ofNat 64 c)))
  refine List.ext_getElem (by simp [hlen]) fun i hi _ => ?_
  rw [List.getElem_map, List.getElem_range, outputByte_block seed c (hlen ▸ hi), List.getD_eq_getElem _ _ hi]

/-- XOF leaves in XOUT the block of the stream that XOF_CTR names (R137, R139). -/
theorem exec_xof_bytes {s t : State} (hexec : exec .xof s = .next t) :
    bytesOf t.xout.toList = (List.range 64).map fun i => outputByte s.seed (64 * s.xofCtr.toNat + i) := by
  rw [exec_xof_xout hexec, ← bytesOf_compress_seed, BitVec.ofNat_toNat, BitVec.setWidth_eq]

/-- Settles O52: OUT is defined by the compression at counter o / 64, and `exec_xof_bytes` reads a block of it. -/
theorem xofBlockIsStreamBlock : Obligations.XofBlockIsStreamBlock :=
  ⟨fun _ _ => rfl, fun _ _ hexec => exec_xof_bytes hexec⟩

/-! ### A run of XOF commands (R140) -/

/-- One more block of output is block `k` behind the first `64k` bytes (R139, R142). -/
theorem outputBytes_block_succ (seed : Seed) (k : Nat) :
    outputBytes seed (64 * (k + 1)) =
      outputBytes seed (64 * k) ++ (List.range 64).map fun i => outputByte seed (64 * k + i) := by
  simp only [outputBytes, Nat.mul_succ, List.range_add, List.map_append, List.map_map, Function.comp_def]

theorem exec_finalize_xofCtr {s t : State} (hexec : exec .finalize s = .next t) : t.xofCtr = 0 := by
  rw [exec_finalize] at hexec
  cases hexec
  rfl

theorem exec_xof_seed {s t : State} (hexec : exec .xof s = .next t) : t.seed = s.seed := by
  by_contra hne
  exact absurd (exec_seed hexec hne) nofun

/-- After `k` XOF commands the seed is the one captured, and XOF_CTR has counted them (R137, R140). -/
theorem xofRun_seed_xofCtr {states : Nat → State} {k : Nat} (hctr : (states 0).xofCtr = 0)
    (hrun : ∀ j, j < k → exec .xof (states j) = .next (states (j + 1))) :
    (states k).seed = (states 0).seed ∧ (states k).xofCtr = BitVec.ofNat 64 k := by
  induction k with
  | zero => exact ⟨rfl, hctr⟩
  | succ k ih =>
    obtain ⟨hseed, hcount⟩ := ih fun j hj => hrun j (Nat.lt_succ_of_lt hj)
    have hlast := hrun k (Nat.lt_succ_self k)
    refine ⟨(exec_xof_seed hlast).trans hseed, ?_⟩
    rw [exec_xof_xofCtr hlast, hcount]
    exact (BitVec.ofNat_add k 1).symm

/-- A run of XOF commands from XOF_CTR = 0 gives the stream block by block (R140). -/
theorem xofRun_bytes {states : Nat → State} {k : Nat} (hctr : (states 0).xofCtr = 0)
    (hrun : ∀ j, j < k → exec .xof (states j) = .next (states (j + 1))) :
    ((List.range k).flatMap fun j => bytesOf (states (j + 1)).xout.toList) = outputBytes (states 0).seed (64 * k) := by
  induction k with
  | zero => rfl
  | succ k ih =>
    have hbefore : ∀ j, j < k → exec .xof (states j) = .next (states (j + 1)) :=
      fun j hj => hrun j (Nat.lt_succ_of_lt hj)
    obtain ⟨hseed, hcount⟩ := xofRun_seed_xofCtr hctr hbefore
    have hblock : bytesOf (states (k + 1)).xout.toList =
        (List.range 64).map fun i => outputByte (states 0).seed (64 * k + i) := by
      rw [exec_xof_xout (hrun k (Nat.lt_succ_self k)), hseed, hcount, bytesOf_compress_seed]
    rw [List.range_succ, List.flatMap_append, List.flatMap_singleton, ih hbefore, hblock, outputBytes_block_succ]

/-- Settles O53: FINALIZE leaves XOF_CTR = 0, and the run is `xofRun_bytes`. -/
theorem xofRunGivesStream : Obligations.XofRunGivesStream :=
  fun _ _ _ _ hfin hrun => xofRun_bytes (exec_finalize_xofCtr hfin) hrun

/-! ### The block XOF_CTR selects (R141) -/

theorem ctrOf_ctrHigh_ctrLow (c : Counter) : ctrOf (ctrHigh c) (ctrLow c) = c := by
  apply BitVec.eq_of_toNat_eq
  rw [ctrOf, BitVec.toNat_append, ← Nat.shiftLeft_add_eq_or_of_lt (ctrLow c).isLt, Nat.shiftLeft_eq,
    ctrHigh_ctrLow_toNat]

theorem busWrite_xofCtrLo_of_idle (v : Word) {s : State} (hp : s.pending = none) :
    busWrite 32 0x0040 v s = .next { s with xofCtr := ctrOf (ctrHigh s.xofCtr) v } := by
  obtain ⟨h4, hlt, hreg⟩ := ofOffset_of_offset (r := .xofCtrLo) rfl
  rw [busWrite_of_aligned v s h4 hlt, hreg, writeRegister_of_idle _ v hp, writeReg]

theorem busWrite_xofCtrHi_of_idle (v : Word) {s : State} (hp : s.pending = none) :
    busWrite 32 0x0044 v s = .next { s with xofCtr := ctrOf v (ctrLow s.xofCtr) } := by
  obtain ⟨h4, hlt, hreg⟩ := ofOffset_of_offset (r := .xofCtrHi) rfl
  rw [busWrite_of_aligned v s h4 hlt, hreg, writeRegister_of_idle _ v hp, writeReg]

/-- Where the low half of XOF_CTR is that of `c`, writing the high half of `c` makes XOF_CTR `c` (R25, R141). -/
theorem busWrite_xofCtrHi_completes {c : Counter} {s : State} (hp : s.pending = none)
    (hlow : ctrLow s.xofCtr = ctrLow c) : busWrite 32 0x0044 (ctrHigh c) s = .next { s with xofCtr := c } := by
  rw [busWrite_xofCtrHi_of_idle _ hp, hlow, ctrOf_ctrHigh_ctrLow]

/-- Where the high half of XOF_CTR is that of `c`, writing the low half of `c` makes XOF_CTR `c` (R25, R141). -/
theorem busWrite_xofCtrLo_completes {c : Counter} {s : State} (hp : s.pending = none)
    (hhigh : ctrHigh s.xofCtr = ctrHigh c) : busWrite 32 0x0040 (ctrLow c) s = .next { s with xofCtr := c } := by
  rw [busWrite_xofCtrLo_of_idle _ hp, hhigh, ctrOf_ctrHigh_ctrLow]

/-- XOF submitted to an idle engine with a seed is accepted, and its step gives the block XOF_CTR names (R137, R141). -/
theorem busWrite_cmd_xof_of_seed {s : State} (hp : s.pending = none) (hseed : s.seedValid = true) :
    ∃ u t, busWrite 32 0x0004 0x00000004 s = .next u ∧ u.pending = some .xof ∧ exec .xof u = .next t ∧
      bytesOf t.xout.toList = (List.range 64).map fun i => outputByte s.seed (64 * s.xofCtr.toNat + i) := by
  refine ⟨{ s with pending := some .xof }, _, ?_, rfl, exec_xof _, exec_xof_bytes (exec_xof _)⟩
  rw [busWrite_cmd_of_idle _ hp, ← encode_xof, submit_xof, hseed]
  rfl

/-- Settles O54: either order of the two half writes leaves XOF_CTR = c, and XOF then gives that block. -/
theorem xofRandomAccess : Obligations.XofRandomAccess := by
  intro c s hp hseed
  obtain ⟨u, t, hcmd, hpending, hexec, hbytes⟩ := busWrite_cmd_xof_of_seed (s := { s with xofCtr := c }) hp hseed
  exact ⟨⟨_, _, u, t, busWrite_xofCtrLo_of_idle _ hp, busWrite_xofCtrHi_completes hp (ctrLow_ctrOf _ _), hcmd,
      hpending, hexec, hbytes⟩,
    ⟨_, _, u, t, busWrite_xofCtrHi_of_idle _ hp, busWrite_xofCtrLo_completes hp (ctrHigh_ctrOf _ _), hcmd,
      hpending, hexec, hbytes⟩⟩

end Sys2Proof.Machine

/-! SUPPORT. Proofs for 60_exceptions.md: bus writes while BUSY = 1 (R151), how an accepted command leaves PENDING (R149,
R180), what moves DONE, ERR and IRQ_EN (R150, R153), and the interrupt level (R157). -/

namespace Sys2Proof.Machine

/-! ### Bus writes while BUSY = 1 (R151) -/

theorem ofLaneOffset_refusedWhileBusy (k : Fin 4) (rel : Nat) :
    (Reg.ofLaneOffset k rel).refusedWhileBusy = true ↔ rel < 0x70 := by
  fun_cases Reg.ofLaneOffset k rel <;> simp only [Reg.refusedWhileBusy, reduceCtorEq, true_iff, false_iff] <;> omega

/-- The offsets of the registers that R151 refuses: CMD, DBUF, KEY, MODE, XOF_CTR and the lane fields. -/
theorem ofOffset_refusedWhileBusy {off : Nat} (h4 : off % 4 = 0) (hlt : off < 0x2000) :
    (Reg.ofOffset off).refusedWhileBusy = true ↔
      off = 0x0004 ∨ 0x1000 ≤ off ∨ (0x0020 ≤ off ∧ off < 0x0040) ∨ off = 0x0010 ∨ off = 0x0040 ∨ off = 0x0044 ∨
        (0x0200 ≤ off ∧ off < 0x0400 ∧ (off - 0x0200) % 0x80 < 0x70) := by
  fun_cases Reg.ofOffset off
  case case23 =>
    rw [ofLaneOffset_refusedWhileBusy]
    omega
  all_goals simp only [Reg.refusedWhileBusy, reduceCtorEq, true_iff, false_iff]
  all_goals omega

theorem ofOffset_irqEn : Reg.ofOffset 0x000C = .irqEn := rfl

/-- An aligned offset off that of a register names another register. -/
theorem ofOffset_ne_of_offset {r : Reg} {off off' : Nat} (h4 : off % 4 = 0) (hr : r.offset = some off')
    (hne : off ≠ off') : Reg.ofOffset off ≠ r := by
  rintro rfl
  exact hne (offset_ofOffset h4 hr).symm

section
variable {r : Reg} (v : Word) {s : State}

theorem writeRegister_of_refused (hb : s.busy = true) (hr : r.refusedWhileBusy = true) :
    writeRegister r v s = recordError .busy s := by
  rw [writeRegister, hb, hr]
  rfl

theorem writeRegister_status (s : State) : writeRegister .status v s = writeStatus v s := by
  rw [writeRegister, Reg.refusedWhileBusy, Bool.and_false]
  rfl

theorem writeRegister_irqEn (s : State) : writeRegister .irqEn v s = { s with irqEn := v.setWidth 2 } := by
  rw [writeRegister, Reg.refusedWhileBusy, Bool.and_false]
  rfl

/-- A register write while BUSY = 1 is one of the four rows of R151. -/
theorem writeRegister_of_busy_cases (r : Reg) (v : Word) (hb : s.busy = true) :
    writeRegister r v s = recordError .busy s ∨ writeRegister r v s = writeStatus v s ∨
    writeRegister r v s = { s with irqEn := v.setWidth 2 } ∨ writeRegister r v s = s := by
  by_cases hrefused : r.refusedWhileBusy = true
  · exact .inl (writeRegister_of_refused v hb hrefused)
  by_cases hstatus : r = .status
  · exact .inr (.inl (hstatus ▸ writeRegister_status v s))
  by_cases hirq : r = .irqEn
  · exact .inr (.inr (.inl (hirq ▸ writeRegister_irqEn v s)))
  · exact .inr (.inr (.inr (writeRegister_ignored (Bool.eq_false_of_not_eq_true hrefused) hstatus hirq)))

end

/-- Settles O11: each row of R151 is a set of registers, and an aligned offset names one. -/
theorem busyWriteTable : Obligations.BusyWriteTable := by
  refine ⟨?aligned, ?invalid⟩
  case aligned =>
    intro off v s hp hlt h4
    have hreg := busWrite_of_aligned v s h4 hlt
    by_cases hrefused : (Reg.ofOffset off).refusedWhileBusy = true
    · rw [if_pos ((ofOffset_refusedWhileBusy h4 hlt).mp hrefused), hreg,
        writeRegister_of_refused v (busy_of_pending hp) hrefused]
    rw [if_neg (mt (ofOffset_refusedWhileBusy h4 hlt).mpr hrefused)]
    by_cases hstatus : off = 0x0008
    · obtain ⟨_, hw1c, _⟩ := statusFieldsAndW1c
      rw [if_pos hstatus, hstatus, hw1c]
    rw [if_neg hstatus, hreg]
    by_cases hirq : off = 0x000C
    · rw [if_pos hirq, hirq, ofOffset_irqEn, writeRegister_irqEn]
    · rw [if_neg hirq, writeRegister_ignored (Bool.eq_false_of_not_eq_true hrefused)
        (ofOffset_ne_of_offset h4 rfl hstatus) (ofOffset_ne_of_offset h4 rfl hirq)]
  case invalid =>
    intro width off v s _ hlt hbad
    exact busWrite_of_invalid v s hlt (validAccess_eq_false_iff.mpr hbad)

/-! ### How an accepted command leaves PENDING (R149, R151, R170, R180) -/

/-- `u` is `s` but for STATUS, IRQ_EN and what the bus has done: the same command waits in PENDING, and all that it will
read stands as it stood (R151). -/
structure CommandWaits (s u : State) : Prop where
  pending : u.pending = s.pending
  hash : u.hash = s.hash
  key : u.key = s.key
  mode : u.mode = s.mode
  lanes : u.lanes = s.lanes
  seed : u.seed = s.seed
  xofCtr : u.xofCtr = s.xofCtr
  dbuf : u.dbuf = s.dbuf
  resets : u.resets = s.resets

theorem CommandWaits.refl (s : State) : CommandWaits s s := ⟨rfl, rfl, rfl, rfl, rfl, rfl, rfl, rfl, rfl⟩

theorem CommandWaits.trans {s t u : State} (hst : CommandWaits s t) (htu : CommandWaits t u) : CommandWaits s u where
  pending := htu.pending.trans hst.pending
  hash := htu.hash.trans hst.hash
  key := htu.key.trans hst.key
  mode := htu.mode.trans hst.mode
  lanes := htu.lanes.trans hst.lanes
  seed := htu.seed.trans hst.seed
  xofCtr := htu.xofCtr.trans hst.xofCtr
  dbuf := htu.dbuf.trans hst.dbuf
  resets := htu.resets.trans hst.resets

theorem recordError_commandWaits (e : ErrorCode) (s : State) : CommandWaits s (recordError e s) := by
  constructor <;> simp

/-- R151: "the running command is unaffected". -/
theorem writeRegister_commandWaits (r : Reg) (v : Word) {s : State} (hb : s.busy = true) :
    CommandWaits s (writeRegister r v s) := by
  rcases writeRegister_of_busy_cases r v hb with hw | hw | hw | hw <;> rw [hw]
  · exact recordError_commandWaits .busy s
  · constructor <;> rfl
  · constructor <;> rfl
  · exact .refl s

theorem busWrite_commandWaits {width off : Nat} {v : Word} {s t : State} (hb : s.busy = true)
    (hw : busWrite width off v s = .next t) : t.inputs = s.inputs ∧ CommandWaits s t := by
  rcases busWrite_next hw with ⟨_, ⟨_, rfl⟩ | ⟨_, rfl⟩⟩
  · exact ⟨writeRegister_inputs .., writeRegister_commandWaits _ v hb⟩
  · exact ⟨recordError_inputs .., recordError_commandWaits .bus s⟩

theorem busRead_commandWaits {width off : Nat} {s t : State} (hr : busRead width off s = .next t) :
    t.inputs = s.inputs ∧ CommandWaits s t := by
  rcases busRead_next hr with ⟨_, ⟨_, rfl⟩ | ⟨_, rfl⟩⟩
  all_goals exact ⟨by simp, by constructor <;> simp⟩

/-- An event at which no access falls outside the aperture (R50). -/
def Input.InAperture : Input → Prop
  | .write _ off _ => off < 8192
  | .read _ off => off < 8192
  | .engineTurn => True
  | .reset => True

theorem exists_busWrite_next {width off : Nat} (v : Word) (s : State) (hlt : off < 8192) :
    ∃ t, busWrite width off v s = .next t := by
  cases hvalid : validAccess width off with
  | false => exact ⟨_, busWrite_of_invalid v s hlt hvalid⟩
  | true => exact ⟨writeRegister (Reg.ofOffset off) v s, by simp [busWrite, hlt, hvalid]⟩

theorem exists_busRead_next {width off : Nat} (s : State) (hlt : off < 8192) :
    ∃ t, busRead width off s = .next t := by
  cases hvalid : validAccess width off with
  | false => exact ⟨_, busRead_of_invalid s hlt hvalid⟩
  | true => exact ⟨drawn (reply (busValue (Reg.ofOffset off) s) s), by simp [busRead, hlt, hvalid]⟩

/-- What the oldest event does to a waiting command: it is the engine's turn or the reset input, or the event is an
access, after which the command still waits. -/
theorem step_of_input {s : State} {e : Input} {rest : List Input} (hb : s.busy = true) (hin : s.inputs = e :: rest)
    (he : e.InAperture) :
    e = .engineTurn ∨ e = .reset ∨ ∃ t, step s = .next t ∧ t.inputs = rest ∧ CommandWaits s t := by
  have hpop : CommandWaits s { s with inputs := rest } := by constructor <;> rfl
  cases e with
  | engineTurn => exact .inl rfl
  | reset => exact .inr (.inl rfl)
  | write width off v =>
    obtain ⟨t, ht⟩ := exists_busWrite_next (width := width) v { s with inputs := rest } he
    obtain ⟨hrest, hwaits⟩ := busWrite_commandWaits (s := { s with inputs := rest }) hb ht
    exact .inr (.inr ⟨t, by rw [step, hin]; exact ht, hrest, hpop.trans hwaits⟩)
  | read width off =>
    obtain ⟨t, ht⟩ := exists_busRead_next (width := width) { s with inputs := rest } he
    obtain ⟨hrest, hwaits⟩ := busRead_commandWaits ht
    exact .inr (.inr ⟨t, by rw [step, hin]; exact ht, hrest, hpop.trans hwaits⟩)

/-- A run of `k + 1` steps is its first step and the run of `k` steps from there. -/
theorem run_succ_of_step {M : Host.Core} {s s' : M.State} (k : Nat) (hstep : M.step s = .next s') :
    M.run (k + 1) s = M.run k s' := by
  rw [Host.Core.run, hstep]

/-- The step from `u` is what takes the command `i` out of PENDING: the engine's turn runs it, or reset abandons it
(R149, R170). -/
def LeavesPending (i : Instr) (u t : State) : Prop :=
  ((u.inputs = [] ∨ ∃ rest, u.inputs = .engineTurn :: rest) ∧ exec i { u with inputs := u.inputs.tail } = .next t) ∨
    ∃ rest, u.inputs = .reset :: rest ∧ t = resetEngine { u with inputs := rest }

theorem LeavesPending.pending {i : Instr} {u t : State} (hleaves : LeavesPending i u t) : t.pending = none := by
  rcases hleaves with ⟨_, hexec⟩ | ⟨rest, _, rfl⟩
  · exact exec_pending hexec
  · rfl

theorem LeavesPending.step_eq_next {i : Instr} {u t : State} (hp : u.pending = some i) (hleaves : LeavesPending i u t) :
    step u = .next t := by
  rcases hleaves with ⟨hin | ⟨rest, hin⟩, hexec⟩ | ⟨rest, hin, rfl⟩
  · rw [step_of_inputs_nil hin, engineStep_of_pending hp, ← hexec, hin, List.tail_nil, ← hin]
  · rw [step_of_engineTurn hin, engineStep_of_pending (s := { u with inputs := rest }) hp, ← hexec, hin, List.tail_cons]
  · rw [step, hin]

/-- The waiting command's last step, reached by taking the inputs before it one by one. -/
theorem exists_leavesPending {i : Instr} (events : List Input) :
    ∀ s : State, s.inputs = events → s.pending = some i → (∀ e ∈ events, e.InAperture) →
      ∃ k u t, k ≤ events.length ∧ core.run k s = .next u ∧ CommandWaits s u ∧ LeavesPending i u t := by
  induction events with
  | nil =>
    intro s hin _ _
    obtain ⟨t, hexec⟩ := exec_next i { s with inputs := s.inputs.tail }
    exact ⟨0, s, t, Nat.le_refl 0, rfl, .refl s, .inl ⟨.inl hin, hexec⟩⟩
  | cons e rest ih =>
    intro s hin hp haperture
    obtain ⟨he, hrest⟩ := List.forall_mem_cons.mp haperture
    rcases step_of_input (busy_eq_true_iff.mpr ⟨i, hp⟩) hin he with rfl | rfl | ⟨s', hstep, hin', hwaits⟩
    · obtain ⟨t, hexec⟩ := exec_next i { s with inputs := s.inputs.tail }
      exact ⟨0, s, t, Nat.zero_le _, rfl, .refl s, .inl ⟨.inr ⟨rest, hin⟩, hexec⟩⟩
    · exact ⟨0, s, _, Nat.zero_le _, rfl, .refl s, .inr ⟨rest, hin, rfl⟩⟩
    · obtain ⟨k, u, t, hk, hrun, hwaits', hleaves⟩ := ih s' hin' (hwaits.pending.trans hp) hrest
      have hfirst := run_succ_of_step (M := core) k hstep
      exact ⟨k + 1, u, t, Nat.succ_le_succ hk, hfirst.trans hrun, hwaits.trans hwaits', hleaves⟩

/-- Settles O8, by induction over the inputs: an access leaves the command waiting, and the others take it. -/
theorem acceptedCommandEventuallyLeavesPending : Obligations.AcceptedCommandEventuallyLeavesPending := by
  intro i s hp haperture
  have hevents : ∀ e ∈ s.inputs, e.InAperture := fun e he => by cases e <;> exact haperture _ he
  obtain ⟨k, u, t, hk, hrun, hwaits, hleaves⟩ := exists_leavesPending s.inputs s rfl hp hevents
  have hpu : u.pending = some i := hwaits.pending.trans hp
  exact ⟨k, u, t, hk, hrun, hleaves.step_eq_next hpu, hpu, hleaves.pending, hwaits.hash, hwaits.key, hwaits.mode,
    hwaits.lanes, hwaits.seed, hwaits.xofCtr, dbufByte_congr hwaits.dbuf hwaits.resets, hleaves⟩

/-! ### What moves DONE, ERR and IRQ_EN (R149, R150, R153) -/

section
variable {i : Instr} {s t : State}

theorem exec_done (hexec : exec i s = .next t) : t.done = true := by
  cases i <;> cases hexec <;> rfl

theorem exec_err (hexec : exec i s = .next t) : t.err = s.err := by
  cases i <;> cases hexec <;> rfl

theorem exec_irqEn (hexec : exec i s = .next t) : t.irqEn = s.irqEn := by
  cases i <;> cases hexec <;> rfl

/-- Execution neither looks at the recorded error nor changes it (R153). -/
theorem exec_with_err (e : Option ErrorCode) (hexec : exec i s = .next t) :
    exec i { s with err := e } = .next { t with err := e } := by
  cases i <;> cases hexec <;> rfl

end

/-- From `s` to `t` no status bit is cleared: DONE stays 1 where it was, a recorded error stays, and so does IRQ_EN. -/
structure NothingCleared (s t : State) : Prop where
  done : s.done = true → t.done = true
  err : ∀ c, s.err = some c → t.err = some c
  irqEn : t.irqEn = s.irqEn

theorem NothingCleared.of_eq {s t : State} (hdone : t.done = s.done) (herr : t.err = s.err) (hirq : t.irqEn = s.irqEn) :
    NothingCleared s t :=
  ⟨hdone.trans, fun _ => herr.trans, hirq⟩

/-- A completion sets DONE and leaves the rest of STATUS (R149, R150). -/
theorem exec_nothingCleared {i : Instr} {s t : State} (hexec : exec i s = .next t) : NothingCleared s t :=
  ⟨fun _ => exec_done hexec, fun _ => (exec_err hexec).trans, exec_irqEn hexec⟩

theorem recordError_nothingCleared (e : ErrorCode) (s : State) : NothingCleared s (recordError e s) where
  done := (recordError_done e s).trans
  err c hc := by rw [recordError_of_some hc, hc]
  irqEn := recordError_irqEn e s

theorem submit_nothingCleared (w : Word) (s : State) : NothingCleared s (submit w s) := by
  rcases submit_cases w s with ⟨_, _, hsub⟩ | ⟨_, e, _, _, hsub⟩ | ⟨i, _, _, hsub⟩ <;> rw [hsub]
  · exact recordError_nothingCleared .illegalCmd s
  · exact recordError_nothingCleared e s
  · exact .of_eq rfl rfl rfl

/-- STATUS and IRQ_EN alone are registers where a write can clear a bit. -/
theorem writeRegister_nothingCleared {r : Reg} (v : Word) (s : State) (hstatus : r ≠ .status) (hirq : r ≠ .irqEn) :
    NothingCleared s (writeRegister r v s) := by
  rcases writeRegister_cases r v s with ⟨_, _, hw⟩ | ⟨_, hw⟩ <;> rw [hw]
  · exact recordError_nothingCleared .busy s
  · cases r
    case cmd => exact submit_nothingCleared v s
    case status => exact absurd rfl hstatus
    case irqEn => exact absurd rfl hirq
    all_goals exact .of_eq rfl rfl rfl

/-- A bus write that can clear a bit is the aligned 32-bit write of STATUS or of IRQ_EN. -/
theorem busWrite_status_cases {width off : Nat} {v : Word} {s t : State} (hw : busWrite width off v s = .next t) :
    (width = 32 ∧ off = 0x0008 ∧ t = writeStatus v s) ∨
    (width = 32 ∧ off = 0x000C ∧ t = { s with irqEn := v.setWidth 2 }) ∨ NothingCleared s t := by
  obtain ⟨_, ⟨hvalid, rfl⟩ | ⟨_, rfl⟩⟩ := busWrite_next hw
  · simp only [validAccess, Bool.and_eq_true, decide_eq_true_eq] at hvalid
    obtain ⟨hwidth, h4⟩ := hvalid
    by_cases hstatus : off = 0x0008
    · exact .inl ⟨hwidth, hstatus, by rw [hstatus, ofOffset_status, writeRegister_status]⟩
    by_cases hirq : off = 0x000C
    · exact .inr (.inl ⟨hwidth, hirq, by rw [hirq, ofOffset_irqEn, writeRegister_irqEn]⟩)
    · exact .inr (.inr (writeRegister_nothingCleared v s (ofOffset_ne_of_offset h4 rfl hstatus)
        (ofOffset_ne_of_offset h4 rfl hirq)))
  · exact .inr (.inr (recordError_nothingCleared .bus s))

theorem busRead_nothingCleared {width off : Nat} {s t : State} (hr : busRead width off s = .next t) :
    NothingCleared s t := by
  rcases busRead_next hr with ⟨_, ⟨_, rfl⟩ | ⟨_, rfl⟩⟩
  · exact .of_eq (by simp) (by simp) (by simp)
  · obtain ⟨hdone, herr, hirq⟩ := recordError_nothingCleared .bus s
    exact ⟨hdone, herr, hirq⟩

/-- NothingCleared speaks of STATUS and IRQ_EN alone, so the oldest input may be taken first. -/
theorem NothingCleared.of_inputs {s t : State} {rest : List Input}
    (hkept : NothingCleared { s with inputs := rest } t) : NothingCleared s t :=
  ⟨hkept.done, hkept.err, hkept.irqEn⟩

/-- The steps that can clear DONE, ERR or a bit of IRQ_EN: a STATUS write, an IRQ_EN write, and reset. -/
theorem step_status_cases {s t : State} (hstep : step s = .next t) :
    (∃ v rest, s.inputs = .write 32 0x0008 v :: rest ∧ t = writeStatus v { s with inputs := rest }) ∨
    (∃ v rest, s.inputs = .write 32 0x000C v :: rest ∧ t = { s with irqEn := v.setWidth 2, inputs := rest }) ∨
    (∃ rest, s.inputs = .reset :: rest ∧ t = resetEngine { s with inputs := rest }) ∨ NothingCleared s t := by
  rcases step_cases hstep with ⟨i, rest, _, _, hexec⟩ | ⟨rest, _, _, rfl⟩ | ⟨width, off, v, rest, hin, hw⟩ |
    ⟨width, off, rest, _, hr⟩ | hreset
  · exact .inr (.inr (.inr (exec_nothingCleared hexec).of_inputs))
  · exact .inr (.inr (.inr (.of_eq rfl rfl rfl)))
  · rcases busWrite_status_cases hw with ⟨rfl, rfl, ht⟩ | ⟨rfl, rfl, ht⟩ | hkept
    · exact .inl ⟨v, rest, hin, ht⟩
    · exact .inr (.inl ⟨v, rest, hin, ht⟩)
    · exact .inr (.inr (.inr hkept.of_inputs))
  · exact .inr (.inr (.inr (busRead_nothingCleared hr).of_inputs))
  · exact .inr (.inr (.inl hreset))

/-- Settles O9: of the events that `step_status_cases` lists, a STATUS write and reset alone can clear DONE. -/
theorem doneIsStickyUntilCleared : Obligations.DoneIsStickyUntilCleared := by
  refine ⟨fun i s t => exec_done, ?cleared, ?write, fun _ => rfl⟩
  case cleared =>
    intro s t hstep hs ht
    rcases step_status_cases hstep with ⟨v, rest, hin, rfl⟩ | ⟨v, rest, _, rfl⟩ | ⟨rest, hin, _⟩ | hkept
    · exact .inl ⟨v, rest, hin, by simpa [hs] using ht⟩
    · exact absurd hs (Bool.eq_false_iff.mp ht)
    · exact .inr ⟨rest, hin⟩
    · exact absurd (hkept.done hs) (Bool.eq_false_iff.mp ht)
  case write =>
    intro v s hv
    exact ⟨_, busWrite_status v s, by rw [writeStatus_done, hv, Bool.not_true, Bool.and_false]⟩

/-- Settles O10: of the events that `step_status_cases` lists, a STATUS write and reset alone can clear ERR. -/
theorem firstErrorIsKept : Obligations.FirstErrorIsKept := by
  refine ⟨fun _ _ => recordError_of_none, fun _ _ _ => recordError_of_some, ?cleared, ?write, ?ignored⟩
  case cleared =>
    intro c s t hstep hs ht
    rcases step_status_cases hstep with ⟨v, rest, hin, rfl⟩ | ⟨v, rest, _, rfl⟩ | ⟨rest, hin, rfl⟩ | hkept
    · cases hv : v.getLsbD 2 with
      | false => exact absurd (by rw [writeStatus_err, hv]; exact hs) ht
      | true => exact ⟨by rw [writeStatus_err, hv]; rfl, .inl ⟨v, rest, hin, hv⟩⟩
    · exact absurd hs ht
    · exact ⟨rfl, .inr ⟨rest, hin⟩⟩
    · exact absurd (hkept.err c hs) ht
  case write =>
    intro v s hv
    have herr : (writeStatus v s).err = none := by rw [writeStatus_err, if_pos hv]
    exact ⟨_, busWrite_status v s, by rw [State.errBit, herr]; rfl, by rw [State.errCode, herr]⟩
  case ignored => exact fun i s e => ⟨acceptError_congr i rfl rfl, fun t => exec_with_err e⟩

/-! ### The interrupt level (R157) -/

theorem irq_eq_true_iff {s : State} :
    s.irq = true ↔ (s.done = true ∧ s.irqEn.getLsbD 0 = true) ∨ (s.err ≠ none ∧ s.irqEn.getLsbD 1 = true) := by
  simp [State.irq, State.doneIe, State.errIe, State.errBit, Option.isSome_iff_ne_none]

theorem irq_resetEngine (s : State) : (resetEngine s).irq = false := rfl

/-- Where IRQ_EN stays, the level rises with DONE or with ERR. -/
theorem irq_rises_of_irqEn_eq {s t : State} (hirqEn : t.irqEn = s.irqEn) (hs : s.irq = false) (ht : t.irq = true) :
    (s.done = false ∧ t.done = true ∧ t.irqEn.getLsbD 0 = true) ∨
    (s.err = none ∧ t.err ≠ none ∧ t.irqEn.getLsbD 1 = true) := by
  have hlow := mt irq_eq_true_iff.mpr (Bool.eq_false_iff.mp hs)
  rcases irq_eq_true_iff.mp ht with ⟨hdone, hen⟩ | ⟨herr, hen⟩
  · exact .inl ⟨Bool.eq_false_iff.mpr fun hs => hlow (.inl ⟨hs, hirqEn ▸ hen⟩), hdone, hen⟩
  · exact .inr ⟨of_not_not fun hs => hlow (.inr ⟨hs, hirqEn ▸ hen⟩), herr, hen⟩

/-- The level does not fall where nothing is cleared. -/
theorem NothingCleared.irq {s t : State} (hkept : NothingCleared s t) (hs : s.irq = true) : t.irq = true := by
  rw [irq_eq_true_iff, hkept.irqEn]
  rcases irq_eq_true_iff.mp hs with ⟨hdone, hen⟩ | ⟨herr, hen⟩
  · exact .inl ⟨hkept.done hdone, hen⟩
  · obtain ⟨c, hc⟩ := Option.ne_none_iff_exists'.mp herr
    exact .inr ⟨by rw [hkept.err c hc]; exact Option.some_ne_none c, hen⟩

/-- A STATUS write with neither W1C bit clears nothing (R21). -/
theorem writeStatus_nothingCleared {v : Word} (s : State) (h1 : v.getLsbD 1 = false) (h2 : v.getLsbD 2 = false) :
    NothingCleared s (writeStatus v s) :=
  .of_eq (by rw [writeStatus_done, h1, Bool.not_false, Bool.and_true]) (by rw [writeStatus_err, h2]; rfl) rfl

/-- The level after a write of IRQ_EN, by the bits written (R22). -/
theorem irq_of_irqEn_write {v : Word} {s : State} {rest : List Input}
    (ht : State.irq { s with irqEn := v.setWidth 2, inputs := rest } = true) :
    (s.done = true ∧ v.getLsbD 0 = true) ∨ (s.err ≠ none ∧ v.getLsbD 1 = true) := by
  simpa [BitVec.getLsbD_setWidth] using irq_eq_true_iff.mp ht

/-- Settles O22: the level is a function of DONE, ERR and IRQ_EN, and `step_status_cases` lists what can clear them. -/
theorem irqLevelFollowsStatus : Obligations.IrqLevelFollowsStatus := by
  refine ⟨fun s => irq_eq_true_iff, ?rises, ?falls, irq_resetEngine⟩
  case rises =>
    intro s t hstep hs ht
    rcases step_status_cases hstep with ⟨v, rest, _, rfl⟩ | ⟨v, rest, hin, rfl⟩ | ⟨rest, _, rfl⟩ | hkept
    · exact (irq_rises_of_irqEn_eq (s := s) (writeStatus_irqEn v _) hs ht).imp_right .inl
    · exact .inr (.inr ⟨v, rest, hin, irq_of_irqEn_write ht⟩)
    · exact absurd ht (Bool.eq_false_iff.mp (irq_resetEngine _))
    · exact (irq_rises_of_irqEn_eq hkept.irqEn hs ht).imp_right .inl
  case falls =>
    intro s t hstep hs ht
    rcases step_status_cases hstep with ⟨v, rest, hin, rfl⟩ | ⟨v, rest, hin, _⟩ | hreset | hkept
    · refine .inl ⟨v, rest, hin, ?_⟩
      by_contra hbits
      simp only [not_or, Bool.not_eq_true] at hbits
      obtain ⟨h1, h2⟩ := hbits
      have hkept := writeStatus_nothingCleared { s with inputs := rest } h1 h2
      exact absurd (hkept.irq hs) (Bool.eq_false_iff.mp ht)
    · exact .inr (.inl ⟨v, rest, hin⟩)
    · exact .inr (.inr (hreset.imp fun _ => And.left))
    · exact absurd (hkept.irq hs) (Bool.eq_false_iff.mp ht)

end Sys2Proof.Machine

/-! SUPPORT. Proofs for 70_reset_and_hazards.md: the table of R169 and what reset forgets (R170), the hash state after
reset (R172), and the end of a run (R183). -/

namespace Sys2Proof.Machine

/-! ### The table of R169 -/

theorem reset_cleanEntry : CleanEntry State.reset := rfl

theorem resetEngine_cleanEntry (s : State) : CleanEntry (resetEngine s) := rfl

/-- The state of R182's clean entry holds the table of R169, whatever the model's own fields hold. -/
theorem CleanEntry.atReset {s : State} (hs : CleanEntry s) : AtReset s := by
  rw [hs]
  constructor
  case seedCv | seedM | xout | res => intros; simp [readReg, State.reset, Seed.zero]
  case lanes => intro k; simp [readReg, State.reset, LaneBank.zero]
  case status => exact ⟨rfl, rfl, rfl, rfl⟩
  case chunkCtr => exact ⟨rfl, ctrHigh_zero⟩
  case dbuf => exact fun _ => rfl
  all_goals rfl

theorem step_of_reset {s : State} {rest : List Input} (hin : s.inputs = .reset :: rest) :
    step s = .next (resetEngine { s with inputs := rest }) := by
  rw [step, hin]

/-- A command writes none of the model's own records of draws and replies, nor the count of resets (log 5, 6, 8). -/
theorem exec_ownRecords {i : Instr} {s t : State} (hexec : exec i s = .next t) :
    t.replies = s.replies ∧ t.draws = s.draws ∧ t.resets = s.resets := by
  cases i <;> cases hexec <;> exact ⟨rfl, rfl, rfl⟩

/-- Settles O24: every state that reset leaves is a clean entry, and reset keeps of the state before it only what no
command writes. -/
theorem resetRestoresTable : Obligations.ResetRestoresTable := by
  refine ⟨reset_cleanEntry.atReset, ?table, ?abandons⟩
  case table => exact fun s rest hin => ⟨_, step_of_reset hin, (resetEngine_cleanEntry _).atReset⟩
  case abandons =>
    intro i s u hexec
    obtain ⟨hreplies, hdraws, hresets⟩ := exec_ownRecords hexec
    rw [step_of_reset rfl, step_of_reset rfl, resetEngine, resetEngine, hreplies, hdraws, hresets]

/-! ### The hash state after reset (R172) -/

/-- The seed of the empty input (R131, R172). -/
theorem seedOf_rootSeed_reset :
    seedOf (rootSeed State.reset.hash) = { cv := iv, m := Vector.replicate 16 0, blockLen := 0, flags := 0x03 } := by
  decide

/-- Settles O25: INIT with the reset values of KEY and MODE builds reset's hash state; FINALIZE takes its seed from that
state; XOF is refused because SEED_VALID = 0. -/
theorem resetEqualsPlainInit : Obligations.ResetEqualsPlainInit := by
  refine ⟨?init, rfl, rfl, rfl, ?finalize, ?xof⟩
  case init =>
    intro s hkey hmode
    refine ⟨_, exec_init s, ?_, rfl, rfl, rfl⟩
    rw [complete_hash, hkey, hmode]
    rfl
  case finalize =>
    have hwrite := busWrite_cmd_of_idle (encode .finalize) (s := State.reset) rfl
    rw [submit_finalize, encode_finalize] at hwrite
    obtain ⟨hturn, _⟩ := stepRunsPendingCommand
    exact ⟨_, _, hwrite, (hturn .finalize _ rfl rfl).trans (exec_finalize _), seedOf_rootSeed_reset, rfl⟩
  case xof =>
    have hnoSeed : State.reset.seedValid = false := rfl
    rw [busWrite_cmd_of_idle _ rfl, ← encode_xof, submit_xof, if_pos hnoSeed, recordError_of_none rfl]

/-! ### The end of a run (R183) -/

/-- Without reset, a step of a run that is over takes the next input and does nothing else (R16, R171). -/
theorem RunOver.step_eq_tail {s : State} (hover : RunOver s) (hreset : ∀ e ∈ s.inputs, e ≠ .reset) :
    step s = .next { s with inputs := s.inputs.tail } := by
  obtain ⟨hbus, hp⟩ := hover
  cases hin : s.inputs with
  | nil => rw [step_of_inputs_nil hin, engineStep_of_idle hp, List.tail_nil, ← hin]
  | cons e rest =>
    have he : e ∈ s.inputs := hin ▸ List.mem_cons_self
    cases e with
    | engineTurn => rw [step_of_engineTurn hin, engineStep_of_idle (s := { s with inputs := rest }) hp, List.tail_cons]
    | reset => exact absurd rfl (hreset _ he)
    | write width off v => exact absurd (hbus _ he) nofun
    | read width off => exact absurd (hbus _ he) nofun

theorem RunOver.of_inputs_tail {s : State} (hover : RunOver s) : RunOver { s with inputs := s.inputs.tail } := by
  obtain ⟨hbus, hp⟩ := hover
  exact ⟨fun e he => hbus e (List.mem_of_mem_tail he), hp⟩

/-- While no reset waits, a run that is over stays over, and its observation stays (R183). -/
theorem RunOver.run {s : State} (hover : RunOver s) (hreset : ∀ e ∈ s.inputs, e ≠ .reset) (k : Nat) :
    ∃ t, core.run k s = .next t ∧ RunOver t ∧ observation t = observation s := by
  induction k generalizing s with
  | zero => exact ⟨s, rfl, hover, rfl⟩
  | succ k ih =>
    obtain ⟨t, hrun, hover', hobs⟩ := ih hover.of_inputs_tail fun e he => hreset e (List.mem_of_mem_tail he)
    have hfirst := run_succ_of_step (M := core) k (hover.step_eq_tail hreset)
    exact ⟨t, hfirst.trans hrun, hover', hobs.trans (observation_outside s _ s.replies)⟩

/-- Settles O58: the engine is idle, so a read returns the true value; and what is left of the inputs takes turns of an
idle engine. -/
theorem runOverIsObservable : Obligations.RunOverIsObservable := by
  intro s hover
  refine ⟨fun n hn => ⟨_, observation_registers_get s hn, ?read⟩, ⟨rfl, rfl⟩, hover.run⟩
  case read => exact busRead_of_idle (by omega) (by omega) (busy_eq_false_iff.mp hover.busy)

end Sys2Proof.Machine
